-- ==== Sys2Proof/Word.lean ====
section
/-! DEFINITION. The widths of the machine's values (spec/00_scope.md R5, R8, R9; spec/30_encoding.md R91). -/

namespace Sys2Proof

/-- Four bits: one nibble of an opcode, the field `N` (R91). -/
abbrev Nibble := BitVec 4

/-- Eight bits: a memory byte, a `V` register, a timer, the field `NN` (R5, R91). -/
abbrev Byte := BitVec 8

/-- Twelve bits: the field `NNN` (R91). -/
abbrev Addr := BitVec 12

/-- Sixteen bits: an opcode, `I`, `pc`, a stack slot (R5). -/
abbrev Word := BitVec 16

/-- The number of a general register, the fields `X` and `Y`; every value names a register (R20). -/
abbrev Reg := Fin 16

end Sys2Proof
end

