-- ==== Sys2Proof/Machine/Flags.lean ====
section
/-! DEFINITION. The values and flags of the arithmetic: exact on integers, then narrowed to 8 bits (spec/43_alu.md R174). -/

namespace Sys2Proof.Machine

/-- `trunc_8(a + b)` (R166). -/
def sum8 (a b : Byte) : Byte := BitVec.ofNat 8 (a.toNat + b.toNat)

/-- Carry out: the integer sum is above 255 (R166). -/
def carryOut (a b : Byte) : Bool := decide (a.toNat + b.toNat > 255)

/-- `(a - b) mod 256` (R167). -/
def difference8 (a b : Byte) : Byte := BitVec.ofInt 8 ((a.toNat : Int) - (b.toNat : Int))

/-- NOT borrow: minuend at least subtrahend (R167). -/
def noBorrow (a b : Byte) : Bool := decide (a.toNat ≥ b.toNat)

/-- The logical shift right by one (R172). -/
def shiftRight (b : Byte) : Byte := b >>> 1

/-- The bit 8XY6 shifts out: bit 0 (R172). -/
def lowBit (b : Byte) : Bool := b.getLsbD 0

/-- The shift left by one, truncated (R173). -/
def shiftLeft (b : Byte) : Byte := b <<< 1

/-- The bit 8XYE shifts out: bit 7 (R173). -/
def highBit (b : Byte) : Bool := b.getLsbD 7

end Sys2Proof.Machine
end

