-- ==== Sys2Proof/Syntax.lean ====
section
/-! DEFINITION. The instructions, one constructor per row of spec/opcode_table.json and in its order (spec/30_encoding.md R95),
and the unknown word (R100) last. -/

namespace Sys2Proof

/-- A decoded instruction. `x` and `y` are register numbers, `nn`, `nnn` and `n` the immediates of R91. -/
inductive Instr where
  /-- 00E0, clear the display (R200). -/
  | cls
  /-- 00EE, return from subroutine (R140). -/
  | ret
  /-- 1NNN, jump (R141). -/
  | jp (nnn : Addr)
  /-- 2NNN, call subroutine (R142). -/
  | call (nnn : Addr)
  /-- 3XNN, skip if `V[X] = NN` (R150). -/
  | seImm (x : Reg) (nn : Byte)
  /-- 4XNN, skip if `V[X] != NN` (R151). -/
  | sneImm (x : Reg) (nn : Byte)
  /-- 5XY0, skip if `V[X] = V[Y]` (R152). -/
  | seReg (x y : Reg)
  /-- 9XY0, skip if `V[X] != V[Y]` (R153). -/
  | sneReg (x y : Reg)
  /-- 6XNN, load immediate (R160). -/
  | ldImm (x : Reg) (nn : Byte)
  /-- 7XNN, add immediate without flag (R161). -/
  | addImm (x : Reg) (nn : Byte)
  /-- 8XY0, copy (R162). -/
  | ldReg (x y : Reg)
  /-- 8XY1, bitwise or (R163). -/
  | orReg (x y : Reg)
  /-- 8XY2, bitwise and (R164). -/
  | andReg (x y : Reg)
  /-- 8XY3, bitwise exclusive or (R165). -/
  | xorReg (x y : Reg)
  /-- 8XY4, add with carry out (R166). -/
  | addReg (x y : Reg)
  /-- 8XY5, subtract with no-borrow flag (R167). -/
  | subReg (x y : Reg)
  /-- 8XY7, reverse subtract with no-borrow flag (R168). -/
  | subnReg (x y : Reg)
  /-- 8XY6, shift right by one (R172). -/
  | shr (x y : Reg)
  /-- 8XYE, shift left by one (R173). -/
  | shl (x y : Reg)
  /-- ANNN, load index (R180). -/
  | ldI (nnn : Addr)
  /-- BNNN, jump with register offset (R143). -/
  | jpV0 (nnn : Addr)
  /-- CXNN, masked random byte (R190). -/
  | rnd (x : Reg) (nn : Byte)
  /-- DXYN, draw a sprite (R201). -/
  | drw (x y : Reg) (n : Nibble)
  /-- EX9E, skip if key held (R154). -/
  | skp (x : Reg)
  /-- EXA1, skip if key not held (R155). -/
  | sknp (x : Reg)
  /-- FX07, read delay timer (R191). -/
  | ldVDt (x : Reg)
  /-- FX15, set delay timer (R192). -/
  | ldDt (x : Reg)
  /-- FX18, set sound timer (R193). -/
  | ldSt (x : Reg)
  /-- FX1E, add register to index (R181). -/
  | addI (x : Reg)
  /-- FX0A, wait for a key (R194). -/
  | ldK (x : Reg)
  /-- FX29, point at a font glyph (R182). -/
  | ldF (x : Reg)
  /-- FX33, store binary-coded decimal (R183). -/
  | ldB (x : Reg)
  /-- FX55, store registers `V[0]` to `V[X]` (R184). -/
  | storeRegs (x : Reg)
  /-- FX65, load registers `V[0]` to `V[X]` (R185). -/
  | loadRegs (x : Reg)
  /-- Any word matching no other row: a no-operation (R100). -/
  | unknown (w : Word)
deriving DecidableEq, Repr

end Sys2Proof
end

