-- ==== Sys2Proof/WellFormed.lean ====
section
/-! DEFINITION. The opcode map of spec/30_encoding.md R95 as data, and which terms of `Instr` are instructions: register
numbers and immediates are so by their types, an unknown word must match no row of the map. -/

namespace Sys2Proof

/-- One row of R95: the number in its first column, its `mask` and its `match`. -/
structure OpcodeRow where
  number : Nat
  mask : Word
  value : Word
deriving DecidableEq, Repr

/-- "a word `w` is the instruction exactly when `w & mask = match`" (R95). -/
abbrev OpcodeRow.Matches (r : OpcodeRow) (w : Word) : Prop := w &&& r.mask = r.value

/-- The 34 rows of R95, in its order. -/
def opcodeMap : List OpcodeRow :=
  [⟨1, 0xFFFF, 0x00E0⟩, ⟨2, 0xFFFF, 0x00EE⟩, ⟨3, 0xF000, 0x1000⟩, ⟨4, 0xF000, 0x2000⟩,
   ⟨5, 0xF000, 0x3000⟩, ⟨6, 0xF000, 0x4000⟩, ⟨7, 0xF00F, 0x5000⟩, ⟨8, 0xF00F, 0x9000⟩] ++
  [⟨9, 0xF000, 0x6000⟩, ⟨10, 0xF000, 0x7000⟩, ⟨11, 0xF00F, 0x8000⟩, ⟨12, 0xF00F, 0x8001⟩,
   ⟨13, 0xF00F, 0x8002⟩, ⟨14, 0xF00F, 0x8003⟩, ⟨15, 0xF00F, 0x8004⟩, ⟨16, 0xF00F, 0x8005⟩,
   ⟨17, 0xF00F, 0x8007⟩, ⟨18, 0xF00F, 0x8006⟩, ⟨19, 0xF00F, 0x800E⟩] ++
  [⟨20, 0xF000, 0xA000⟩, ⟨21, 0xF000, 0xB000⟩, ⟨22, 0xF000, 0xC000⟩, ⟨23, 0xF000, 0xD000⟩,
   ⟨24, 0xF0FF, 0xE09E⟩, ⟨25, 0xF0FF, 0xE0A1⟩] ++
  [⟨26, 0xF0FF, 0xF007⟩, ⟨27, 0xF0FF, 0xF015⟩, ⟨28, 0xF0FF, 0xF018⟩, ⟨29, 0xF0FF, 0xF01E⟩,
   ⟨30, 0xF0FF, 0xF00A⟩, ⟨31, 0xF0FF, 0xF029⟩, ⟨32, 0xF0FF, 0xF033⟩, ⟨33, 0xF0FF, 0xF055⟩,
   ⟨34, 0xF0FF, 0xF065⟩]

/-- The row of R95 an instruction belongs to; 35 is the catch-all row of spec/opcode_table.json (R99, R100). -/
def Instr.rowNumber : Instr → Nat
  | .cls => 1
  | .ret => 2
  | .jp _ => 3
  | .call _ => 4
  | .seImm _ _ => 5
  | .sneImm _ _ => 6
  | .seReg _ _ => 7
  | .sneReg _ _ => 8
  | .ldImm _ _ => 9
  | .addImm _ _ => 10
  | .ldReg _ _ => 11
  | .orReg _ _ => 12
  | .andReg _ _ => 13
  | .xorReg _ _ => 14
  | .addReg _ _ => 15
  | .subReg _ _ => 16
  | .subnReg _ _ => 17
  | .shr _ _ => 18
  | .shl _ _ => 19
  | .ldI _ => 20
  | .jpV0 _ => 21
  | .rnd _ _ => 22
  | .drw _ _ _ => 23
  | .skp _ => 24
  | .sknp _ => 25
  | .ldVDt _ => 26
  | .ldDt _ => 27
  | .ldSt _ => 28
  | .addI _ => 29
  | .ldK _ => 30
  | .ldF _ => 31
  | .ldB _ => 32
  | .storeRegs _ => 33
  | .loadRegs _ => 34
  | .unknown _ => 35

/-- An unknown word matches no row of R95 (R100); every other term is an instruction as it stands. -/
def Instr.wellFormed : Instr → Bool
  | .unknown w => opcodeMap.all fun r => w &&& r.mask != r.value
  | _ => true

/-- `Instr.wellFormed` as a proposition. -/
abbrev Instr.WellFormed (i : Instr) : Prop := i.wellFormed = true

end Sys2Proof
end

