-- ==== Sys2Proof/Decode.lean ====
section
/-! DEFINITION. Decoding, total on every word (spec/30_encoding.md R93), and the encoder, both from the formats of R92 and the
rows of R95. -/

namespace Sys2Proof

/-! ### The six fields of R91 -/

/-- `op`, bits 15 to 12. -/
def opField (w : Word) : Nibble := w.extractLsb' 12 4

/-- `X`, bits 11 to 8, as a register number. -/
def xField (w : Word) : Reg := (w.extractLsb' 8 4).toFin

/-- `Y`, bits 7 to 4, as a register number. -/
def yField (w : Word) : Reg := (w.extractLsb' 4 4).toFin

/-- `N`, bits 3 to 0. -/
def nField (w : Word) : Nibble := w.extractLsb' 0 4

/-- `NN`, bits 7 to 0. -/
def nnField (w : Word) : Byte := w.extractLsb' 0 8

/-- `NNN`, bits 11 to 0. -/
def nnnField (w : Word) : Addr := w.extractLsb' 0 12

/-! ### Dispatch on the top nibble, then on `N` or `NN` (R96, R97, R98) -/

/-- Family 0x0 compares all of `NNN` (R97). -/
def decode0 (w : Word) : Instr :=
  match nnnField w with
  | 0x0E0#12 => .cls
  | 0x0EE#12 => .ret
  | _ => .unknown w

/-- Family 0x5 has a literal 0 in the low nibble (R98). -/
def decode5 (w : Word) : Instr :=
  match nField w with
  | 0x0#4 => .seReg (xField w) (yField w)
  | _ => .unknown w

/-- Family 0x8 selects on `N` (R97). -/
def decode8 (w : Word) : Instr :=
  match nField w with
  | 0x0#4 => .ldReg (xField w) (yField w)
  | 0x1#4 => .orReg (xField w) (yField w)
  | 0x2#4 => .andReg (xField w) (yField w)
  | 0x3#4 => .xorReg (xField w) (yField w)
  | 0x4#4 => .addReg (xField w) (yField w)
  | 0x5#4 => .subReg (xField w) (yField w)
  | 0x6#4 => .shr (xField w) (yField w)
  | 0x7#4 => .subnReg (xField w) (yField w)
  | 0xE#4 => .shl (xField w) (yField w)
  | _ => .unknown w

/-- Family 0x9 has a literal 0 in the low nibble (R98). -/
def decode9 (w : Word) : Instr :=
  match nField w with
  | 0x0#4 => .sneReg (xField w) (yField w)
  | _ => .unknown w

/-- Family 0xE selects on `NN` (R97). -/
def decodeE (w : Word) : Instr :=
  match nnField w with
  | 0x9E#8 => .skp (xField w)
  | 0xA1#8 => .sknp (xField w)
  | _ => .unknown w

/-- Family 0xF selects on `NN` (R97). -/
def decodeF (w : Word) : Instr :=
  match nnField w with
  | 0x07#8 => .ldVDt (xField w)
  | 0x0A#8 => .ldK (xField w)
  | 0x15#8 => .ldDt (xField w)
  | 0x18#8 => .ldSt (xField w)
  | 0x1E#8 => .addI (xField w)
  | 0x29#8 => .ldF (xField w)
  | 0x33#8 => .ldB (xField w)
  | 0x55#8 => .storeRegs (xField w)
  | 0x65#8 => .loadRegs (xField w)
  | _ => .unknown w

/-- The instruction a word is: "route on the top nibble" (R96). Total and dependent on the word alone (R93, R103). -/
def decodeWord (w : Word) : Instr :=
  match opField w with
  | 0x0#4 => decode0 w
  | 0x1#4 => .jp (nnnField w)
  | 0x2#4 => .call (nnnField w)
  | 0x3#4 => .seImm (xField w) (nnField w)
  | 0x4#4 => .sneImm (xField w) (nnField w)
  | 0x5#4 => decode5 w
  | 0x6#4 => .ldImm (xField w) (nnField w)
  | 0x7#4 => .addImm (xField w) (nnField w)
  | 0x8#4 => decode8 w
  | 0x9#4 => decode9 w
  | 0xA#4 => .ldI (nnnField w)
  | 0xB#4 => .jpV0 (nnnField w)
  | 0xC#4 => .rnd (xField w) (nnField w)
  | 0xD#4 => .drw (xField w) (yField w) (nField w)
  | 0xE#4 => decodeE w
  | _ => decodeF w

/-! ### Bytes -/

/-- Two bytes as a word, the byte of the lower address first: big-endian (spec/20_memory.md R61). -/
def wordOfBytes (hi lo : Byte) : Word := hi ++ lo

/-- A word as its two bytes, the byte of the lower address first (R61). -/
def bytesOfWord (w : Word) : List Byte := [w.extractLsb' 8 8, w.extractLsb' 0 8]

/-- Why bytes are no instruction; a word never is a reason (R93). -/
inductive DecodeError where
  /-- Fewer than the two bytes of an instruction are there (R90). -/
  | truncated
deriving DecidableEq, Repr

/-- What decoding a byte sequence answers: an instruction and the bytes after it, or a refusal by name. -/
inductive Decoded where
  | instr (i : Instr) (rest : List Byte)
  | refused (e : DecodeError)
deriving DecidableEq, Repr

/-- The instruction at the head of a byte sequence: one word, two bytes, high byte first (R90). -/
def decode : List Byte → Decoded
  | hi :: lo :: rest => .instr (decodeWord (wordOfBytes hi lo)) rest
  | _ => .refused .truncated

/-! ### Encoding: the formats of R92 -/

/-- Format `A`: `op`, `NNN`. -/
def formatA (op : Nibble) (nnn : Addr) : Word := op ++ nnn

/-- Formats `XI` and `XS`: `op`, `X`, `NN` (in `XS` a selector). -/
def formatXI (op : Nibble) (x : Reg) (nn : Byte) : Word := op ++ BitVec.ofFin (w := 4) x ++ nn

/-- Formats `XY` and `XYN`: `op`, `X`, `Y`, `N` (in `XY` a selector). -/
def formatXY (op : Nibble) (x y : Reg) (n : Nibble) : Word :=
  op ++ BitVec.ofFin (w := 4) x ++ BitVec.ofFin (w := 4) y ++ n

/-- The word of an instruction (R92, R95); an unknown word is its own encoding. -/
def encode : Instr → Word
  | .cls => 0x00E0
  | .ret => 0x00EE
  | .jp nnn => formatA 0x1 nnn
  | .call nnn => formatA 0x2 nnn
  | .seImm x nn => formatXI 0x3 x nn
  | .sneImm x nn => formatXI 0x4 x nn
  | .seReg x y => formatXY 0x5 x y 0x0
  | .sneReg x y => formatXY 0x9 x y 0x0
  | .ldImm x nn => formatXI 0x6 x nn
  | .addImm x nn => formatXI 0x7 x nn
  | .ldReg x y => formatXY 0x8 x y 0x0
  | .orReg x y => formatXY 0x8 x y 0x1
  | .andReg x y => formatXY 0x8 x y 0x2
  | .xorReg x y => formatXY 0x8 x y 0x3
  | .addReg x y => formatXY 0x8 x y 0x4
  | .subReg x y => formatXY 0x8 x y 0x5
  | .subnReg x y => formatXY 0x8 x y 0x7
  | .shr x y => formatXY 0x8 x y 0x6
  | .shl x y => formatXY 0x8 x y 0xE
  | .ldI nnn => formatA 0xA nnn
  | .jpV0 nnn => formatA 0xB nnn
  | .rnd x nn => formatXI 0xC x nn
  | .drw x y n => formatXY 0xD x y n
  | .skp x => formatXI 0xE x 0x9E
  | .sknp x => formatXI 0xE x 0xA1
  | .ldVDt x => formatXI 0xF x 0x07
  | .ldDt x => formatXI 0xF x 0x15
  | .ldSt x => formatXI 0xF x 0x18
  | .addI x => formatXI 0xF x 0x1E
  | .ldK x => formatXI 0xF x 0x0A
  | .ldF x => formatXI 0xF x 0x29
  | .ldB x => formatXI 0xF x 0x33
  | .storeRegs x => formatXI 0xF x 0x55
  | .loadRegs x => formatXI 0xF x 0x65
  | .unknown w => w

/-! ### The opcode table's numbering -/

/-- The instruction whose bits are `w`, of which the table gives `nbits`: one 16-bit word (R90), every bit above
`nbits` 0, laid out high byte first. -/
def tableBytes (nbits w : Nat) : List Byte := bytesOfWord (BitVec.ofNat 16 (w % 2 ^ nbits))

/-- The instruction the decoder reads from the table word `w` of `nbits` bits. -/
def decodeTableWord (nbits w : Nat) : Option Instr :=
  match decode (tableBytes nbits w) with
  | .instr i _ => some i
  | .refused _ => none

end Sys2Proof
end

