-- ==== Sys2Proof/Config.lean ====
section
/-! DEFINITION. What is fixed when a machine is constructed (the parameters of spec/00_scope.md R6) and the free values
(the inputs of spec/00_scope.md R7, R18). -/

namespace Sys2Proof

/-- `SHIFT_SRC`: the register that 8XY6 and 8XYE shift (R6, R172, R173). -/
inductive ShiftSrc where
  | vx
  | vy
deriving DecidableEq, Repr

/-- `JUMP_REG`: the register that BNNN adds to `NNN` (R6, R143). -/
inductive JumpReg where
  | v0
  | vx
deriving DecidableEq, Repr

/-- The parameters of R6, given at construction; no cycle changes them. -/
structure Config where
  /-- `SHIFT_SRC` (D15). -/
  shiftSrc : ShiftSrc
  /-- `JUMP_REG` (D16). -/
  jumpReg : JumpReg
  /-- `LOADSTORE_INC_I`: do FX55 and FX65 add `X + 1` to `I` (D17). -/
  loadStoreIncI : Bool
  /-- `FONT_TABLE`: the 80 bytes reset puts at 0x050..0x09F (D6). -/
  fontTable : Vector Byte 80
deriving DecidableEq, Repr

/-- Glyphs 0 to 3 of the standard font (R243), five bytes each. -/
def Config.glyphs0to3 : Vector Byte 20 :=
  #v[0xF0, 0x90, 0x90, 0x90, 0xF0,
     0x20, 0x60, 0x20, 0x20, 0x70,
     0xF0, 0x10, 0xF0, 0x80, 0xF0,
     0xF0, 0x10, 0xF0, 0x10, 0xF0]

/-- Glyphs 4 to 7 of the standard font (R243), five bytes each. -/
def Config.glyphs4to7 : Vector Byte 20 :=
  #v[0x90, 0x90, 0xF0, 0x10, 0x10,
     0xF0, 0x80, 0xF0, 0x10, 0xF0,
     0xF0, 0x80, 0xF0, 0x90, 0xF0,
     0xF0, 0x10, 0x20, 0x40, 0x40]

/-- Glyphs 8 to B of the standard font (R243), five bytes each. -/
def Config.glyphs8toB : Vector Byte 20 :=
  #v[0xF0, 0x90, 0xF0, 0x90, 0xF0,
     0xF0, 0x90, 0xF0, 0x10, 0xF0,
     0xF0, 0x90, 0xF0, 0x90, 0x90,
     0xE0, 0x90, 0xE0, 0x90, 0xE0]

/-- Glyphs C to F of the standard font (R243), five bytes each. -/
def Config.glyphsCtoF : Vector Byte 20 :=
  #v[0xF0, 0x80, 0x80, 0x80, 0xF0,
     0xE0, 0x90, 0x90, 0x90, 0xE0,
     0xF0, 0x80, 0xF0, 0x80, 0xF0,
     0xF0, 0x80, 0xF0, 0x80, 0x80]

/-- The default `FONT_TABLE`: the bytes of R243, glyph by glyph, digit 0 first. -/
def Config.standardFont : Vector Byte 80 :=
  (Config.glyphs0to3 ++ Config.glyphs4to7) ++ (Config.glyphs8toB ++ Config.glyphsCtoF)

/-- The parameters' defaults (R6, R243): the configuration of a machine constructed with no argument. -/
def Config.standard : Config where
  shiftSrc := .vx
  jumpReg := .v0
  loadStoreIncI := false
  fontTable := Config.standardFont

/-- FREE VALUE: the keypad vector of the `n`-th cycle for which the host has queued nothing. Under no law (R18, R43,
log entry 1); no body, so that nothing can be proved of its value. -/
opaque Config.freeKeypad : Nat → BitVec 16

/-- FREE VALUE: the random byte of the `n`-th cycle for which the host has queued nothing. Under no law (R44, R190, log
entry 1); no body, so that nothing can be proved of its value. -/
opaque Config.freeRand : Nat → Byte

end Sys2Proof
end

