-- ==== Sys2Proof/Machine/State.lean ====
section
/-! DEFINITION. The state of the machine (spec/10_state.md R20 to R35) and its value after reset
(spec/70_reset_and_hazards.md R240 to R245). -/

namespace Sys2Proof.Machine

/-- The execution state of the engine (R30). -/
inductive Mode where
  /-- The next cycle fetches and executes an instruction. -/
  | running
  /-- An FX0A waits for a key; the next cycle only looks at the keypad. -/
  | awaitingKey
  /-- A fatal condition occurred; no cycle changes anything any more. -/
  | faulted
deriving DecidableEq, Repr

/-- The fatal conditions (spec/60_exceptions.md R210). Taking one is a NEXT state of this model, as R214 describes it
(`State.raise`), so no step answers `Outcome.fault`; the type names the causes that `faultCause` records. Each is safe:
the machine stops where the spec stops it (log entry 7). -/
inductive Fault where
  /-- Raised by the fetch of a Running cycle with `pc > 4094` (R123). Safe. -/
  | pcOutOfRange
  /-- Raised by 00EE with an empty stack (R140). Safe. -/
  | stackUnderflow
  /-- Raised by 2NNN with a full stack (R142). Safe. -/
  | stackOverflow
  /-- Raised by DXYN, FX33, FX55, FX65 when an operand byte lies above 4095 (R66). Safe. -/
  | memOutOfRange
  /-- Raised by EX9E, EXA1 with `V[X] > 15` (R154, R155). Safe. -/
  | keyIndexOutOfRange
deriving DecidableEq, Repr

/-- What is outside the model. -/
inductive Refusal where
  /-- Raised by `exec` for an instruction without a meaning; no arm does. Safe. -/
  | notModelled (mnemonic : String)
  /-- Raised by `launch` for a ROM of no byte or of more than 3584 bytes, a configuration error after which no cycle
  runs (R247); no step does. Safe. -/
  | romLength
deriving DecidableEq, Repr

/-- What the host supplies to one cycle: `keypad_in` (R43) and `rand_in` (R44). -/
structure HostInput where
  keypad : BitVec 16
  rand : Byte
deriving DecidableEq, Repr

/-- Memory: the cells that differ from their reset contents, addresses strictly rising (spec/20_memory.md R60). -/
abbrev Memory := List Host.Cell

/-- The display buffer, `disp[y][x]`: 32 rows of 64 cells, `true` is on (R29). -/
abbrev Display := Vector (Vector Bool 64) 32

/-- Everything the spec gives the machine, then what the model carries beside it. -/
structure State where
  /-- `V[0]` to `V[15]`; `V[15]` is `VF` (R20, R21). -/
  v : Vector Byte 16
  /-- `I`, the index register (R22). -/
  index : Word
  /-- The program counter (R23). -/
  pc : Word
  /-- The call stack's slots; those at `sp` and above are stale (R24, log entry 6). -/
  stack : Vector Word 16
  /-- The number of occupied slots, 0 to 16 (R24, log entry 5). -/
  sp : Fin 17
  /-- The delay timer `DT` (R25). -/
  dt : Byte
  /-- The sound timer `ST` (R26). -/
  st : Byte
  /-- The keypad vector, bit `k` is key `k` (R27): `keypad_in` of the latest cycle. -/
  key : BitVec 16
  /-- Memory (R28). -/
  mem : Memory
  /-- The display buffer (R29). -/
  disp : Display
  /-- The execution state (R30). -/
  mode : Mode
  /-- The `X` of the FX0A that waits (R31). -/
  waitReg : Reg
  /-- Why the core is `Faulted`; `none` is the spec's `None` (R32). -/
  faultCause : Option Fault
  /-- The parameters of construction (spec/00_scope.md R6); not state of the machine (R34, log entry 3). -/
  config : Config
  /-- `rand_in` of the latest cycle (R44); the model's own field (log entry 2). -/
  rand : Byte
  /-- What the host has supplied for the coming cycles, next first; the model's own field (log entry 1). -/
  inputs : List HostInput
  /-- How many free inputs were drawn; the model's own field, selects the next free value (log entry 1). -/
  draws : Nat
deriving DecidableEq, Repr

/-- The machine right after reset with the parameters `c`: the values of R240 to R245 (spec/70_reset_and_hazards.md). -/
def State.resetWith (c : Config) : State where
  v := Vector.replicate 16 0
  index := 0
  pc := 0x0200
  stack := Vector.replicate 16 0
  sp := 0
  dt := 0
  st := 0
  key := 0
  mem := []
  disp := Vector.replicate 32 (Vector.replicate 64 false)
  mode := .running
  waitReg := 0
  faultCause := none
  config := c
  rand := 0
  inputs := []
  draws := 0

/-- Reset with no argument: the parameters at their defaults (R6, R41; log entry 4). -/
def State.reset : State := State.resetWith Config.standard

end Sys2Proof.Machine
end

