-- ==== Sys2Proof/Machine/Ops.lean ====
section
/-! DEFINITION. The named operations over registers, memory, the call stack and the display, the fetch, taking a fault, and the
pieces of a cycle that are no instruction's (spec/10_state.md, spec/20_memory.md, spec/40_cycle.md, spec/60_exceptions.md). -/

namespace Sys2Proof.Machine

/-- What executing an instruction answers. -/
abbrev Result := Host.Outcome State Fault Refusal

/-! ### Memory (spec/20_memory.md) -/

/-- The reset contents of a byte, which an unlisted address reads as: `FONT_TABLE` at 0x050..0x09F, 0x00 elsewhere
(R242, R243). -/
def initialByte (c : Config) (a : Nat) : Byte :=
  if h : 0x050 ≤ a ∧ a < 0x0A0 then c.fontTable[a - 0x050]'(by omega) else 0x00

/-- The listed byte of an address. -/
def Memory.lookup : Memory → Nat → Option Byte
  | [], _ => none
  | (a', b) :: m, a => if a' = a then some b else Memory.lookup m a

/-- The byte an address holds. -/
def Memory.read (c : Config) (m : Memory) (a : Nat) : Byte :=
  (Memory.lookup m a).getD (initialByte c a)

/-- The list without the cell of `a`. -/
def Memory.erase (m : Memory) (a : Nat) : Memory :=
  m.filter fun e => e.1 != a

/-- The rising list with `b` listed at `a`. -/
def Memory.insert : Memory → Nat → Byte → Memory
  | [], a, b => [(a, b)]
  | (a', b') :: m, a, b =>
    if a < a' then (a, b) :: (a', b') :: m
    else if a = a' then (a, b) :: m
    else (a', b') :: Memory.insert m a b

/-- Storing a byte at an address 0..4095 (R60): the form stays canonical, a byte back at its reset contents is not
listed. Outside 0..4095 there is no byte to store to; no instruction gets there (log entry 8). -/
def Memory.write (c : Config) (m : Memory) (a : Nat) (b : Byte) : Memory :=
  if a < 4096 then
    if b = initialByte c a then Memory.erase m a else Memory.insert m a b
  else m

/-- The canonical form: addresses strictly rising and inside 0..4095, no entry equal to its reset contents. -/
abbrev Memory.wf (c : Config) (m : Memory) : Prop :=
  m.Pairwise (fun e f => e.1 < f.1) ∧ ∀ e ∈ m, e.1 < 4096 ∧ e.2 ≠ initialByte c e.1

/-- `MemRead(a, 1)` of R11. -/
def State.readByte (s : State) (a : Nat) : Byte := Memory.read s.config s.mem a

/-- `MemWrite(a, 1, b)` of R11. -/
def State.writeByte (s : State) (a : Nat) (b : Byte) : State :=
  { s with mem := Memory.write s.config s.mem a b }

/-- Storing bytes at `a`, `a + 1`, ... in ascending order (R61, R69). -/
def State.writeBytes (s : State) (a : Nat) : List Byte → State
  | [] => s
  | b :: bs => (s.writeByte a b).writeBytes (a + 1) bs

/-! ### Registers (spec/10_state.md R20 to R26) -/

/-- A read of `V[x]` (R10). -/
def State.getV (s : State) (x : Reg) : Byte := s.v[x]

/-- `V[x] <- b` (R10). -/
def State.setV (s : State) (x : Reg) (b : Byte) : State := { s with v := s.v.set x b }

/-- A write of the flag: `V[15]` becomes 0x01 or 0x00 (R21). -/
def State.setFlag (s : State) (f : Bool) : State := s.setV 15 (if f then 0x01 else 0x00)

/-- `I <- w`. -/
def State.setIndex (s : State) (w : Word) : State := { s with index := w }

/-- `pc <- w`. -/
def State.setPc (s : State) (w : Word) : State := { s with pc := w }

/-- `DT <- b`. -/
def State.setDt (s : State) (b : Byte) : State := { s with dt := b }

/-- `ST <- b`. -/
def State.setSt (s : State) (b : Byte) : State := { s with st := b }

/-- `disp <- d`. -/
def State.setDisp (s : State) (d : Display) : State := { s with disp := d }

/-- "Skip" under a condition: `pc <- pc + 2` on the advanced `pc` (R14). -/
def State.skipIf (s : State) (c : Bool) : State := { s with pc := if c then s.pc + 2 else s.pc }

/-- Is key `k` held in this cycle (R27)? -/
def State.keyHeld (s : State) (k : Nat) : Bool := s.key.getLsbD k

/-! ### The call stack (R24) -/

/-- A push at `stack[sp]`; `none` when the stack is full. -/
def State.push (s : State) (w : Word) : Option State :=
  if h : s.sp.val < 16 then
    some { s with stack := s.stack.set s.sp.val w, sp := ⟨s.sp.val + 1, by omega⟩ }
  else none

/-- A pop of the newest slot; `none` when the stack is empty. The vacated slot keeps its value (R140). -/
def State.pop (s : State) : Option (Word × State) :=
  if h : 0 < s.sp.val then
    some (s.stack[s.sp.val - 1]'(by omega), { s with sp := ⟨s.sp.val - 1, by omega⟩ })
  else none

/-! ### Taking a fault, waiting for a key -/

/-- `raise <Cause>` (R12, R214): `mode <- Faulted`, `fault_cause <- Cause`, nothing else. The cycle that reaches it
performs no tick (`State.endCycle`). There is no return from it (R217). -/
def State.raise (s : State) (cause : Fault) : State :=
  { s with mode := .faulted, faultCause := some cause }

/-- Parking on an FX0A: `wait_reg <- X`, `mode <- AwaitingKey` (R194). -/
def State.park (s : State) (x : Reg) : State := { s with waitReg := x, mode := .awaitingKey }

/-- The least key held in a keypad vector (R128). -/
def lowestKey (keypad : BitVec 16) : Option Reg :=
  (List.finRange 16).find? fun k => keypad.getLsbD k.val

/-- An AwaitingKey cycle: nothing while no key is held, else the least held key goes to `V[wait_reg]` and the core runs
again. No fetch and no tick (R128). -/
def State.awaitKey (s : State) : State :=
  match lowestKey s.key with
  | none => s
  | some k => { s with v := s.v.set s.waitReg (BitVec.ofNat 8 k.val), mode := .running }

/-! ### Fetch, tick and the host's inputs -/

/-- Can the fetch read both bytes: `pc <= 4094` (R123)? -/
def State.canFetch (s : State) : Bool := decide (s.pc.toNat ≤ 4094)

/-- The two bytes of the next instruction word, lower address first (R61). -/
def State.fetchBytes (s : State) : List Byte :=
  [s.readByte s.pc.toNat, s.readByte (s.pc.toNat + 1)]

/-- `opcode = (mem[pc] << 8) | mem[pc+1]` (R61, R123). -/
def State.fetchWord (s : State) : Word :=
  wordOfBytes (s.readByte s.pc.toNat) (s.readByte (s.pc.toNat + 1))

/-- The fetch's `pc <- pc + 2` (R123). -/
def State.advance (s : State) : State := { s with pc := s.pc + 2 }

/-- One timer's tick: decrement by one, saturating at 0 (R127). -/
def tickByte (b : Byte) : Byte := if b = 0 then 0 else b - 1

/-- The timer tick: both timers, independently (R127). -/
def State.tick (s : State) : State := { s with dt := tickByte s.dt, st := tickByte s.st }

/-- The end of a Running cycle: the tick, unless the cycle faulted (R121, R127, R214). -/
def State.endCycle (s : State) : State := if s.mode = .faulted then s else s.tick

/-- The inputs of the cycle that starts now: what the host queued, else free values (R18, log entry 1). -/
def State.cycleInput (s : State) : HostInput :=
  s.inputs.headD ⟨Config.freeKeypad s.draws, Config.freeRand s.draws⟩

/-- The start of a cycle: `key := keypad_in` (R120), `rand_in` beside it. -/
def State.sampleInputs (s : State) : State :=
  { s with
    key := s.cycleInput.keypad
    rand := s.cycleInput.rand
    inputs := s.inputs.tail
    draws := if s.inputs.isEmpty then s.draws + 1 else s.draws }

end Sys2Proof.Machine
end

