-- ==== Sys2Proof/Machine/Operands.lean ====
section
/-! DEFINITION. The operand forms: where an instruction's operands come from and which bytes it reaches (spec/20_memory.md R63,
R66; spec/43_alu.md R172; spec/41_flow.md R143; spec/44_index_mem.md R182 to R186). -/

namespace Sys2Proof.Machine

/-- The source register of 8XY6 and 8XYE by `SHIFT_SRC` (R172, R173). -/
def State.shiftSource (s : State) (x y : Reg) : Byte :=
  match s.config.shiftSrc with
  | .vx => s.getV x
  | .vy => s.getV y

/-- The top nibble of `NNN`, which is the `X` field of the word (R92, R143). -/
def jumpField (nnn : Addr) : Reg := (nnn.extractLsb' 8 4).toFin

/-- The register BNNN adds, by `JUMP_REG` (R143). -/
def State.jumpOffset (s : State) (nnn : Addr) : Byte :=
  match s.config.jumpReg with
  | .v0 => s.getV 0
  | .vx => s.getV (jumpField nnn)

/-- The range check of R63 and R66 on unbounded integers: `count` bytes from `I` on all lie in 0..4095, or there are
none. -/
def inMemory (i : Word) (count : Nat) : Bool := count == 0 || decide (i.toNat + count - 1 ≤ 4095)

/-- The address of the glyph of a digit, `0x050 + 5 * V[X]`, not masked (R182). -/
def glyphAddress (d : Byte) : Word := 0x0050 + 5 * d.setWidth 16

/-- The decimal digits of a byte, hundreds first (R183). -/
def decimalDigits (b : Byte) : List Byte :=
  [BitVec.ofNat 8 (b.toNat / 100), BitVec.ofNat 8 (b.toNat / 10 % 10), BitVec.ofNat 8 (b.toNat % 10)]

/-- `V[0]` to `V[x]`, the registers FX55 stores (R184). -/
def State.registersTo (s : State) (x : Reg) : List Byte := s.v.toList.take (x.val + 1)

/-- The register file after FX65: `V[k] <- mem[I + k]` for `k` in 0 .. x, the others kept (R185). -/
def State.registersLoaded (s : State) (x : Reg) : Vector Byte 16 :=
  Vector.ofFn fun k => if k ≤ x then s.readByte (s.index.toNat + k.val) else s.getV k

/-- `I` after FX55 and FX65 by `LOADSTORE_INC_I` (R184, R185). -/
def State.indexAfter (s : State) (x : Reg) : Word :=
  if s.config.loadStoreIncI then s.index + BitVec.ofNat 16 (x.val + 1) else s.index

end Sys2Proof.Machine
end

