-- ==== Sys2Proof/Machine/Alu.lean ====
section
/-! DEFINITION. Register load, arithmetic, logic and shifts: 6XNN, 7XNN, 8XY0 to 8XY7, 8XYE (spec/43_alu.md). Operands are read
from `s` before any write; writes stand in the rule's order, the later one to a register wins (spec/00_scope.md R13). -/

namespace Sys2Proof.Machine

/-- 6XNN (R160). -/
def execLdImm (x : Reg) (nn : Byte) (s : State) : Result := .next (s.setV x nn)

/-- 7XNN (R161). -/
def execAddImm (x : Reg) (nn : Byte) (s : State) : Result := .next (s.setV x (sum8 (s.getV x) nn))

/-- 8XY0 (R162). -/
def execLdReg (x y : Reg) (s : State) : Result := .next (s.setV x (s.getV y))

/-- 8XY1 (R163). -/
def execOrReg (x y : Reg) (s : State) : Result := .next (s.setV x (s.getV x ||| s.getV y))

/-- 8XY2 (R164). -/
def execAndReg (x y : Reg) (s : State) : Result := .next (s.setV x (s.getV x &&& s.getV y))

/-- 8XY3 (R165). -/
def execXorReg (x y : Reg) (s : State) : Result := .next (s.setV x (s.getV x ^^^ s.getV y))

/-- 8XY4: result, then flag (R166). -/
def execAddReg (x y : Reg) (s : State) : Result :=
  .next ((s.setV x (sum8 (s.getV x) (s.getV y))).setFlag (carryOut (s.getV x) (s.getV y)))

/-- 8XY5: result, then flag (R167). -/
def execSubReg (x y : Reg) (s : State) : Result :=
  .next ((s.setV x (difference8 (s.getV x) (s.getV y))).setFlag (noBorrow (s.getV x) (s.getV y)))

/-- 8XY7: result, then flag (R168). -/
def execSubnReg (x y : Reg) (s : State) : Result :=
  .next ((s.setV x (difference8 (s.getV y) (s.getV x))).setFlag (noBorrow (s.getV y) (s.getV x)))

/-- 8XY6: flag, then result (R172). -/
def execShr (x y : Reg) (s : State) : Result :=
  .next ((s.setFlag (lowBit (s.shiftSource x y))).setV x (shiftRight (s.shiftSource x y)))

/-- 8XYE: flag, then result (R173). -/
def execShl (x y : Reg) (s : State) : Result :=
  .next ((s.setFlag (highBit (s.shiftSource x y))).setV x (shiftLeft (s.shiftSource x y)))

end Sys2Proof.Machine
end

