-- ==== Sys2Proof/Machine/Flow.lean ====
section
/-! DEFINITION. Control transfer: 00EE, 1NNN, 2NNN, BNNN (spec/41_flow.md). `pc` is already the address after the instruction. -/

namespace Sys2Proof.Machine

/-- 00EE (R140). -/
def execRet (s : State) : Result :=
  match s.pop with
  | none => .next (s.raise .stackUnderflow)
  | some (w, t) => .next (t.setPc w)

/-- 1NNN (R141). -/
def execJp (nnn : Addr) (s : State) : Result := .next (s.setPc (nnn.setWidth 16))

/-- 2NNN: the pushed value is the advanced `pc` (R142). -/
def execCall (nnn : Addr) (s : State) : Result :=
  match s.push s.pc with
  | none => .next (s.raise .stackOverflow)
  | some t => .next (t.setPc (nnn.setWidth 16))

/-- BNNN: the sum is neither wrapped nor masked (R143). -/
def execJpV0 (nnn : Addr) (s : State) : Result :=
  .next (s.setPc (nnn.setWidth 16 + (s.jumpOffset nnn).setWidth 16))

end Sys2Proof.Machine
end

