-- ==== Sys2Proof/Machine/IndexMem.lean ====
section
/-! DEFINITION. Index register and memory transfer: ANNN, FX1E, FX29, FX33, FX55, FX65 (spec/44_index_mem.md). The range check
precedes every effect (spec/20_memory.md R66). -/

namespace Sys2Proof.Machine

/-- ANNN (R180). -/
def execLdI (nnn : Addr) (s : State) : Result := .next (s.setIndex (nnn.setWidth 16))

/-- FX1E: modulo 65536, no flag (R181). -/
def execAddI (x : Reg) (s : State) : Result := .next (s.setIndex (s.index + (s.getV x).setWidth 16))

/-- FX29 (R182). -/
def execLdF (x : Reg) (s : State) : Result := .next (s.setIndex (glyphAddress (s.getV x)))

/-- FX33 (R183). -/
def execLdB (x : Reg) (s : State) : Result :=
  if inMemory s.index 3 then .next (s.writeBytes s.index.toNat (decimalDigits (s.getV x)))
  else .next (s.raise .memOutOfRange)

/-- FX55 (R184). -/
def execStoreRegs (x : Reg) (s : State) : Result :=
  if inMemory s.index (x.val + 1) then
    .next ((s.writeBytes s.index.toNat (s.registersTo x)).setIndex (s.indexAfter x))
  else .next (s.raise .memOutOfRange)

/-- FX65 (R185). -/
def execLoadRegs (x : Reg) (s : State) : Result :=
  if inMemory s.index (x.val + 1) then
    .next { s with v := s.registersLoaded x, index := s.indexAfter x }
  else .next (s.raise .memOutOfRange)

end Sys2Proof.Machine
end

