-- ==== Sys2Proof/Machine/Outside.lean ====
section
/-! DEFINITION. Random, timers and key wait: CXNN, FX07, FX15, FX18, FX0A (spec/45_rand_timer_key.md), and the unknown word
(spec/30_encoding.md R100). -/

namespace Sys2Proof.Machine

/-- CXNN (R190). -/
def execRnd (x : Reg) (nn : Byte) (s : State) : Result := .next (s.setV x (nn &&& s.rand))

/-- FX07: `DT` before this cycle's tick (R191). -/
def execLdVDt (x : Reg) (s : State) : Result := .next (s.setV x s.dt)

/-- FX15 (R192). -/
def execLdDt (x : Reg) (s : State) : Result := .next (s.setDt (s.getV x))

/-- FX18 (R193). -/
def execLdSt (x : Reg) (s : State) : Result := .next (s.setSt (s.getV x))

/-- FX0A: the keypad is not looked at in this cycle (R194); the waking cycle is `State.awaitKey`. -/
def execLdK (x : Reg) (s : State) : Result := .next (s.park x)

/-- An unknown word: a no-operation (R100). -/
def execUnknown (s : State) : Result := .next s

end Sys2Proof.Machine
end

