-- ==== Sys2Proof/Machine/Screen.lean ====
section
/-! DEFINITION. The display: 00E0, DXYN (spec/46_display.md). -/

namespace Sys2Proof.Machine

/-- The display with every cell off (R200). -/
def blankDisplay : Display := Vector.replicate 32 (Vector.replicate 64 false)

/-- A sprite being drawn: the display so far, and whether a cell has been turned off (R201). -/
structure Drawing where
  disp : Display
  collision : Bool
deriving DecidableEq, Repr

/-- One sprite bit at column `x`, row `y`: a 0 bit and a pixel outside the grid change nothing; a 1 bit toggles the cell
and collides with a cell that was on (R201, R203). -/
def Drawing.plot (d : Drawing) (bit : Bool) (x y : Nat) : Drawing :=
  if h : x ≤ 63 ∧ y ≤ 31 then
    if bit then
      { disp := d.disp.set y ((d.disp[y]'(by omega)).set x (!((d.disp[y]'(by omega))[x]'(by omega))) (by omega)) (by omega)
        collision := d.collision || (d.disp[y]'(by omega))[x]'(by omega) }
    else d
  else d

/-- One sprite row: bit `7 - c` of the byte at column `x0 + c` (R201, R202). -/
def Drawing.plotRow (d : Drawing) (b : Byte) (x0 y : Nat) : Drawing :=
  (List.range 8).foldl (fun d c => d.plot (b.getLsbD (7 - c)) (x0 + c) y) d

/-- The `n` rows of a sprite whose row `r` is the byte `rows r` (R201). -/
def Drawing.plotRows (d : Drawing) (rows : Nat → Byte) (x0 y0 n : Nat) : Drawing :=
  (List.range n).foldl (fun d r => d.plotRow (rows r) x0 (y0 + r)) d

/-- The start column, `vx mod 64` (R203). -/
def startColumn (vx : Byte) : Nat := vx.toNat % 64

/-- The start row, `vy mod 32` (R203). -/
def startRow (vy : Byte) : Nat := vy.toNat % 32

/-- The sprite of DXYN drawn over the display (R201). -/
def State.drawn (s : State) (x y : Reg) (n : Nibble) : Drawing :=
  Drawing.plotRows ⟨s.disp, false⟩ (fun r => s.readByte (s.index.toNat + r))
    (startColumn (s.getV x)) (startRow (s.getV y)) n.toNat

/-- 00E0 (R200). -/
def execCls (s : State) : Result := .next (s.setDisp blankDisplay)

/-- DXYN: the display, then `VF` (R201). -/
def execDrw (x y : Reg) (n : Nibble) (s : State) : Result :=
  if inMemory s.index n.toNat then
    .next ((s.setDisp (s.drawn x y n).disp).setFlag (s.drawn x y n).collision)
  else .next (s.raise .memOutOfRange)

end Sys2Proof.Machine
end

