-- ==== Sys2Proof/Machine/Skip.lean ====
section
/-! DEFINITION. Conditional skips: 3XNN, 4XNN, 5XY0, 9XY0, EX9E, EXA1 (spec/42_skip.md). -/

namespace Sys2Proof.Machine

/-- 3XNN (R150). -/
def execSeImm (x : Reg) (nn : Byte) (s : State) : Result := .next (s.skipIf (s.getV x == nn))

/-- 4XNN (R151). -/
def execSneImm (x : Reg) (nn : Byte) (s : State) : Result := .next (s.skipIf (s.getV x != nn))

/-- 5XY0 (R152). -/
def execSeReg (x y : Reg) (s : State) : Result := .next (s.skipIf (s.getV x == s.getV y))

/-- 9XY0 (R153). -/
def execSneReg (x y : Reg) (s : State) : Result := .next (s.skipIf (s.getV x != s.getV y))

/-- EX9E (R154). -/
def execSkp (x : Reg) (s : State) : Result :=
  if (s.getV x).toNat > 15 then .next (s.raise .keyIndexOutOfRange)
  else .next (s.skipIf (s.keyHeld (s.getV x).toNat))

/-- EXA1 (R155). -/
def execSknp (x : Reg) (s : State) : Result :=
  if (s.getV x).toNat > 15 then .next (s.raise .keyIndexOutOfRange)
  else .next (s.skipIf (!s.keyHeld (s.getV x).toNat))

end Sys2Proof.Machine
end

