-- ==== Sys2Proof/Machine/Cycle.lean ====
section
/-! DEFINITION. One cycle (spec/40_cycle.md R120, R121, R128, R129). -/

namespace Sys2Proof.Machine

/-- A Running cycle whose inputs are already sampled: fetch, decode, execute, tick (R121). -/
def runningCycle (s : State) : Result :=
  if s.canFetch then
    match exec (decodeWord s.fetchWord) s.advance with
    | .next t => .next t.endCycle
    | .fault r => .fault r
    | .refused r => .refused r
  else .next (s.raise .pcOutOfRange)

/-- One cycle, by the mode it starts in (R120). A Faulted cycle changes nothing, the model's own fields included (R129). -/
def cycle (s : State) : Result :=
  match s.mode with
  | .running => runningCycle s.sampleInputs
  | .awaitingKey => .next s.sampleInputs.awaitKey
  | .faulted => .next s

/-- `s` with the bytes `bs` where the next fetch reads them, and all else that this fetch needs: the core runs, and `pc`
is an address a fetch can read (0x0200 if it was none). It stands for the ROM load (log entry 11). -/
def State.placed (s : State) (bs : List Byte) : State :=
  let a : Word := if s.canFetch then s.pc else 0x0200
  { s with mode := .running, pc := a }.writeBytes a.toNat bs

end Sys2Proof.Machine
end

