-- ==== Sys2Proof/Machine/Step.lean ====
section
/-! DEFINITION. The step function: one invocation is one cycle (spec/10_state.md R45, spec/00_scope.md R18). -/

namespace Sys2Proof.Machine

/-- One cycle of the machine. -/
def step (s : State) : Host.Outcome State Fault Refusal := cycle s

/-- `s` with the table word `w` of `nbits` bits as the next instruction fetched. -/
def State.withFetchWord (s : State) (nbits w : Nat) : State := s.placed (tableBytes nbits w)

end Sys2Proof.Machine
end

