-- ==== Sys2Proof/Machine/HostInterface.lean ====
section
/-! DEFINITION. What the host does to the core between cycles (spec/10_state.md R40 to R47). Step and reset are
`Sys2Proof.Machine.step` and `State.reset`. -/

namespace Sys2Proof.Machine

/-- The largest ROM: 4096 - 0x200 bytes (spec/00_scope.md R5). -/
abbrev romMax : Nat := 3584

/-- Reset with the parameters `c`, then the ROM load at 0x200, verbatim (R42, R247). A ROM of no byte or of more than
3584 bytes is a configuration error: the load is refused and no cycle follows. -/
def launch (c : Config) (rom : List Byte) : Result :=
  if 1 ≤ rom.length ∧ rom.length ≤ romMax then .next ((State.resetWith c).writeBytes 0x200 rom)
  else .refused .romLength

/-- The host supplies the inputs of one more coming cycle (R43, R44). -/
def State.supply (s : State) (i : HostInput) : State := { s with inputs := s.inputs ++ [i] }

/-- The display as the host reads it: row-major, row 0 first (R46). -/
def State.displayRead (s : State) : List Bool := s.disp.toList.flatMap Vector.toList

/-- The number the host sees for `fault_cause` (R210). -/
def faultCode : Option Fault → Nat
  | none => 0
  | some .pcOutOfRange => 1
  | some .stackUnderflow => 2
  | some .stackOverflow => 3
  | some .memOutOfRange => 4
  | some .keyIndexOutOfRange => 5

end Sys2Proof.Machine
end

