-- ==== Sys2Proof/Machine/Run.lean ====
section
/-! DEFINITION. A run and its end. The spec has no halt: a run ends where the host stops invoking cycles or a fault occurs, and "a
model must define the end of a run itself" (spec/00_scope.md R19). What follows is the model's own definition (log entry 16); no
step looks at it. -/

namespace Sys2Proof.Machine

/-- `n` cycles, whatever happens in them (R19: the host may stop after any number). -/
def State.cycles (s : State) (n : Nat) : Result := Host.Core.run Sys2Proof.core n s

/-- Does the next cycle execute a `1NNN` at address `NNN`, the conventional halt (R19, spec/41_flow.md R141)? -/
def State.atSelfJump (s : State) : Bool :=
  s.mode == .running && s.canFetch &&
    match decodeWord s.fetchWord with
    | .jp nnn => nnn.setWidth 16 == s.pc
    | _ => false

/-- How a run has ended. -/
inductive Ending where
  /-- The program has stopped conventionally: it jumps to itself for ever (R19). The one ending that completes a run. -/
  | selfJump
  /-- A fatal condition: terminal for the program, never its completion (spec/60_exceptions.md R216). -/
  | fault
deriving DecidableEq, Repr

/-- Has the run ended in this state, and how? `none`: only the host's ceasing ends it here. -/
def State.ending (s : State) : Option Ending :=
  if s.mode = .faulted then some .fault
  else if s.atSelfJump then some .selfJump
  else none

/-- A run of at most `n` cycles: it ends in the first state that has an ending, else when the host ceases after `n`
cycles. -/
def State.run (s : State) : Nat → Result
  | 0 => .next s
  | n + 1 =>
    match s.ending with
    | some _ => .next s
    | none =>
      match step s with
      | .next t => t.run n
      | .fault r => .fault r
      | .refused r => .refused r

end Sys2Proof.Machine
end

