-- ==== Sys2Proof/Safety.lean ====
section
/-! DEFINITION. The terms claims are stated in: the parts of the state and what stays unchanged, who may write what, when an
instruction faults, the invariant of a run, and what a safe state is. Nothing here is part of the machine. -/

namespace Sys2Proof.Machine

/-- The parts of the state, one per field of `State`. -/
inductive Part where
  | v
  | index
  | pc
  | stack
  | sp
  | dt
  | st
  | key
  | mem
  | disp
  | mode
  | waitReg
  | faultCause
  | config
  | rand
  | inputs
  | draws
deriving DecidableEq, Repr

/-- A part reads the same in `s` and `t`; memory byte by byte, at every address. -/
def Part.Kept (s t : State) : Part → Prop
  | .v => t.v = s.v
  | .index => t.index = s.index
  | .pc => t.pc = s.pc
  | .stack => t.stack = s.stack
  | .sp => t.sp = s.sp
  | .dt => t.dt = s.dt
  | .st => t.st = s.st
  | .key => t.key = s.key
  | .mem => ∀ a, t.readByte a = s.readByte a
  | .disp => t.disp = s.disp
  | .mode => t.mode = s.mode
  | .waitReg => t.waitReg = s.waitReg
  | .faultCause => t.faultCause = s.faultCause
  | .config => t.config = s.config
  | .rand => t.rand = s.rand
  | .inputs => t.inputs = s.inputs
  | .draws => t.draws = s.draws

/-- The frame: from `s` to `t` nothing changes but the parts listed. -/
def ChangesOnly (s t : State) (ps : List Part) : Prop := ∀ p : Part, p ∉ ps → p.Kept s t

/-- The frame of the register file: no register changes but those listed. -/
def RegistersChangeOnly (s t : State) (xs : List Reg) : Prop :=
  ∀ k : Reg, k ∉ xs → t.getV k = s.getV k

/-- The frame of memory: no byte changes outside `n` bytes from `a`. -/
def BytesChangeOnly (s t : State) (a n : Nat) : Prop :=
  ∀ b : Nat, b < a ∨ a + n ≤ b → t.readByte b = s.readByte b

/-- The parts a cycle's sampling of its inputs writes (spec/40_cycle.md R120). -/
def hostParts : List Part := [.key, .rand, .inputs, .draws]

/-- The cycle that starts in `s` fetches and executes `i` (R121). -/
def RunsNow (s : State) (i : Instr) : Prop :=
  s.mode = .running ∧ s.pc.toNat ≤ 4094 ∧ decodeWord s.fetchWord = i

/-- The parts an instruction's execute step may write: the columns 'written by' of the table of spec/10_state.md §1. -/
def mayWrite (c : Config) : Instr → List Part
  | .cls => [.disp]
  | .ret => [.pc, .sp, .mode, .faultCause]
  | .jp _ => [.pc]
  | .call _ => [.pc, .stack, .sp, .mode, .faultCause]
  | .seImm _ _ => [.pc]
  | .sneImm _ _ => [.pc]
  | .seReg _ _ => [.pc]
  | .sneReg _ _ => [.pc]
  | .ldImm _ _ => [.v]
  | .addImm _ _ => [.v]
  | .ldReg _ _ => [.v]
  | .orReg _ _ => [.v]
  | .andReg _ _ => [.v]
  | .xorReg _ _ => [.v]
  | .addReg _ _ => [.v]
  | .subReg _ _ => [.v]
  | .subnReg _ _ => [.v]
  | .shr _ _ => [.v]
  | .shl _ _ => [.v]
  | .ldI _ => [.index]
  | .jpV0 _ => [.pc]
  | .rnd _ _ => [.v]
  | .drw _ _ _ => [.v, .disp, .mode, .faultCause]
  | .skp _ => [.pc, .mode, .faultCause]
  | .sknp _ => [.pc, .mode, .faultCause]
  | .ldVDt _ => [.v]
  | .ldDt _ => [.dt]
  | .ldSt _ => [.st]
  | .addI _ => [.index]
  | .ldK _ => [.mode, .waitReg]
  | .ldF _ => [.index]
  | .ldB _ => [.mem, .mode, .faultCause]
  | .storeRegs _ => if c.loadStoreIncI then [.mem, .index, .mode, .faultCause] else [.mem, .mode, .faultCause]
  | .loadRegs _ => if c.loadStoreIncI then [.v, .index, .mode, .faultCause] else [.v, .mode, .faultCause]
  | .unknown _ => []

/-- The general registers an instruction's execute step may write: its destination and, for the six instructions of
spec/10_state.md R21, the flag register. -/
def destinations : Instr → List Reg
  | .cls => []
  | .ret => []
  | .jp _ => []
  | .call _ => []
  | .seImm _ _ => []
  | .sneImm _ _ => []
  | .seReg _ _ => []
  | .sneReg _ _ => []
  | .ldImm x _ => [x]
  | .addImm x _ => [x]
  | .ldReg x _ => [x]
  | .orReg x _ => [x]
  | .andReg x _ => [x]
  | .xorReg x _ => [x]
  | .addReg x _ => [x, 15]
  | .subReg x _ => [x, 15]
  | .subnReg x _ => [x, 15]
  | .shr x _ => [x, 15]
  | .shl x _ => [x, 15]
  | .ldI _ => []
  | .jpV0 _ => []
  | .rnd x _ => [x]
  | .drw _ _ _ => [15]
  | .skp _ => []
  | .sknp _ => []
  | .ldVDt x => [x]
  | .ldDt _ => []
  | .ldSt _ => []
  | .addI _ => []
  | .ldK _ => []
  | .ldF _ => []
  | .ldB _ => []
  | .storeRegs _ => []
  | .loadRegs x => (List.finRange 16).filter fun k => k ≤ x
  | .unknown _ => []

/-- The execute-stage fault of an instruction in a state, by the table of spec/60_exceptions.md R210, written from its
conditions on plain integers. -/
def faultIn (s : State) : Instr → Option Fault
  | .ret => if s.sp.val = 0 then some .stackUnderflow else none
  | .call _ => if s.sp.val = 16 then some .stackOverflow else none
  | .drw _ _ n => if 0 < n.toNat ∧ 4095 < s.index.toNat + n.toNat - 1 then some .memOutOfRange else none
  | .ldB _ => if 4095 < s.index.toNat + 2 then some .memOutOfRange else none
  | .storeRegs x => if 4095 < s.index.toNat + x.val then some .memOutOfRange else none
  | .loadRegs x => if 4095 < s.index.toNat + x.val then some .memOutOfRange else none
  | .skp x => if 15 < (s.getV x).toNat then some .keyIndexOutOfRange else none
  | .sknp x => if 15 < (s.getV x).toNat then some .keyIndexOutOfRange else none
  | .cls => none
  | .jp _ => none
  | .seImm _ _ => none
  | .sneImm _ _ => none
  | .seReg _ _ => none
  | .sneReg _ _ => none
  | .ldImm _ _ => none
  | .addImm _ _ => none
  | .ldReg _ _ => none
  | .orReg _ _ => none
  | .andReg _ _ => none
  | .xorReg _ _ => none
  | .addReg _ _ => none
  | .subReg _ _ => none
  | .subnReg _ _ => none
  | .shr _ _ => none
  | .shl _ _ => none
  | .ldI _ => none
  | .jpV0 _ => none
  | .rnd _ _ => none
  | .ldVDt _ => none
  | .ldDt _ => none
  | .ldSt _ => none
  | .addI _ => none
  | .ldK _ => none
  | .ldF _ => none
  | .unknown _ => none

/-- The sprite bit that lands on column `col`, row `row` when DXYN draws in `s`: bit `7 - c` of row `r`'s byte, for the
cell `c` columns and `r` rows from the start position, and 0 for a cell the sprite does not reach (R201, R202, R203). -/
def spriteBit (s : State) (x y : Reg) (n : Nibble) (row : Fin 32) (col : Fin 64) : Bool :=
  let x0 := (s.getV x).toNat % 64
  let y0 := (s.getV y).toNat % 32
  decide (y0 ≤ row.val ∧ row.val < y0 + n.toNat ∧ x0 ≤ col.val ∧ col.val < x0 + 8) &&
    (s.readByte (s.index.toNat + (row.val - y0))).getLsbD (7 - (col.val - x0))

/-- The invariant of a run: `pc` stays at most 0x10FE (R23), a live return address at most 4096 (R140), memory keeps its
canonical form, and a cause is recorded exactly while the core is `Faulted` (R32). -/
def State.Inv (s : State) : Prop :=
  s.pc.toNat ≤ 0x10FE ∧ (∀ k : Fin 16, k.val < s.sp.val → s.stack[k].toNat ≤ 4096) ∧
    Memory.wf s.config s.mem ∧ (s.mode = .faulted ↔ s.faultCause ≠ none)

/-- A state is safe while no fatal condition has occurred (R216). -/
def State.Safe (s : State) : Prop := s.mode ≠ .faulted

/-- A run from `s` completes in `t` within `n` cycles: it ends there, and not by a fault (R19, R216; log entry 16). -/
def State.CompletesIn (s t : State) (n : Nat) : Prop := s.run n = .next t ∧ t.ending = some .selfJump

end Sys2Proof.Machine
end

