-- ==== Sys2Proof/Certificates/Slice0/Obligations.lean ====
section
/-! DEFINITION. The statements for the provers, from the numbered rules of spec/. Where a clause rests on a choice the spec marks
as its own (a decision D<n> of spec/92_eei_decisions.md) or on a choice of the model (a log entry), its docstring says so. -/

open Sys2Proof Sys2Proof.Machine

/-! ### Encoding (spec/30_encoding.md) -/

/-- R91: the six fields are the source's masks and shifts. -/
def Obligations.FieldsAreMasksAndShifts : Prop :=
  ∀ w : Word,
    (opField w).toNat = (w >>> 12).toNat ∧
    (xField w).val = ((w &&& 0x0F00) >>> 8).toNat ∧
    (yField w).val = ((w &&& 0x00F0) >>> 4).toNat ∧
    (nField w).toNat = (w &&& 0x000F).toNat ∧
    (nnField w).toNat = (w &&& 0x00FF).toNat ∧
    (nnnField w).toNat = (w &&& 0x0FFF).toNat

/-- R95: a word is the instruction of a row exactly when it has the row's match under its mask, and no two rows match the
same word. -/
def Obligations.DecodeFollowsOpcodeMap : Prop :=
  (∀ w : Word, ∀ r ∈ opcodeMap, (decodeWord w).rowNumber = r.number ↔ w &&& r.mask = r.value) ∧
  (∀ w : Word, ∀ r ∈ opcodeMap, ∀ q ∈ opcodeMap,
    w &&& r.mask = r.value → w &&& q.mask = q.value → r = q)

/-- R92, R95: decoding the word of any well-formed instruction gives that instruction, every operand included. -/
def Obligations.DecodeOfEncode : Prop :=
  ∀ i : Instr, i.WellFormed → decodeWord (encode i) = i

/-- R93, R95: every word decodes to a well-formed instruction whose word it is. -/
def Obligations.EncodeOfDecode : Prop :=
  ∀ w : Word, (decodeWord w).WellFormed ∧ encode (decodeWord w) = w

/-- The table of R101: the unknown words by family. That families 0x0, 0x5 and 0x9 compare every literal digit is the
spec's decision D14. -/
def Obligations.UnknownWordsByFamily : Prop :=
  ∀ w : Word, decodeWord w = .unknown w ↔
    (opField w = 0x0 ∧ w ≠ 0x00E0 ∧ w ≠ 0x00EE) ∨
    (opField w = 0x5 ∧ nField w ≠ 0x0) ∨
    (opField w = 0x8 ∧ nField w ∈ ([0x8, 0x9, 0xA, 0xB, 0xC, 0xD, 0xF] : List Nibble)) ∨
    (opField w = 0x9 ∧ nField w ≠ 0x0) ∨
    (opField w = 0xE ∧ nnField w ∉ ([0x9E, 0xA1] : List Byte)) ∨
    (opField w = 0xF ∧
      nnField w ∉ ([0x07, 0x0A, 0x15, 0x18, 0x1E, 0x29, 0x33, 0x55, 0x65] : List Byte))

/-- Words written out from the encodings of R95, one or more for each of the sixteen families, read from their two bytes
(R61, R90). That 0x5121 is unknown is the spec's decision D14. -/
def Obligations.SpecWordsDecode : Prop :=
  decode [0x00, 0xE0] = .instr .cls [] ∧
  decode [0x00, 0xEE] = .instr .ret [] ∧
  decode [0x12, 0x04] = .instr (.jp 0x204) [] ∧
  decode [0x2A, 0xBC] = .instr (.call 0xABC) [] ∧
  decode [0x3A, 0x7F] = .instr (.seImm 10 0x7F) [] ∧
  decode [0x40, 0x05] = .instr (.sneImm 0 0x05) [] ∧
  decode [0x51, 0x20] = .instr (.seReg 1 2) [] ∧
  decode [0x6F, 0x01] = .instr (.ldImm 15 0x01) [] ∧
  decode [0x73, 0x01] = .instr (.addImm 3 0x01) [] ∧
  decode [0x8A, 0xB4] = .instr (.addReg 10 11) [] ∧
  decode [0x9A, 0xB0] = .instr (.sneReg 10 11) [] ∧
  decode [0xA2, 0x02] = .instr (.ldI 0x202) [] ∧
  decode [0xB2, 0x34] = .instr (.jpV0 0x234) [] ∧
  decode [0xC1, 0x0F] = .instr (.rnd 1 0x0F) [] ∧
  decode [0xD1, 0x2F] = .instr (.drw 1 2 0xF) [] ∧
  decode [0xE1, 0x9E] = .instr (.skp 1) [] ∧
  decode [0xF2, 0x65, 0x80] = .instr (.loadRegs 2) [0x80] ∧
  decode [0x51, 0x21] = .instr (.unknown 0x5121) []

/-! ### The cycle (spec/40_cycle.md) -/

/-- A step runs the decoded instruction: when the two bytes at `pc` decode to `i`, a Running cycle takes its inputs,
advances `pc`, executes `i`, and ticks the timers unless `i` faulted (R121). -/
def Obligations.StepRunsDecodedInstruction : Prop :=
  ∀ (s : State) (i : Instr), s.mode = .running → s.pc.toNat ≤ 4094 →
    decode [s.readByte s.pc.toNat, s.readByte (s.pc.toNat + 1)] = .instr i [] → i.WellFormed →
    s.sampleInputs.advance.pc = s.pc + 2 ∧
    ChangesOnly s s.sampleInputs.advance (.pc :: hostParts) ∧
    step s =
      match exec i s.sampleInputs.advance with
      | .next t => .next (if t.mode = .faulted then t else t.tick)
      | .fault r => .fault r
      | .refused r => .refused r

/-- R43, R44, R120: a Running or AwaitingKey cycle takes the keypad vector and the random byte that the host supplied for
it, and only them; its instruction or key wait sees them from the start. That they stand in a queue is the model's (log
entries 1 and 2). -/
def Obligations.CycleTakesSuppliedInputs : Prop :=
  ∀ (s : State) (i : HostInput) (rest : List HostInput), s.inputs = i :: rest →
    (s.mode = .running ∨ s.mode = .awaitingKey →
      ∃ t, step s = .next t ∧ t.key = i.keypad ∧ t.rand = i.rand ∧ t.inputs = rest ∧ t.draws = s.draws) ∧
    s.sampleInputs = { s with key := i.keypad, rand := i.rand, inputs := rest }

/-- The model's own form of an input under no law (R18, R43, R44; log entry 1): a Running or AwaitingKey cycle for which
nothing is queued takes the next free keypad vector and the next free random byte. The values are free: the statement
holds whatever they are. -/
def Obligations.CycleWithoutSupplyDrawsFreeInputs : Prop :=
  ∀ s : State, s.inputs = [] → s.mode = .running ∨ s.mode = .awaitingKey →
    ∃ t, step s = .next t ∧ t.key = Config.freeKeypad s.draws ∧ t.rand = Config.freeRand s.draws ∧
      t.inputs = [] ∧ t.draws = s.draws + 1

/-- R18: a cycle is a total function; it never stops outside the machine. -/
def Obligations.StepAlwaysAnswersNext : Prop :=
  ∀ s : State, ∃ t, step s = .next t

/-- R123, R214: a fetch with `pc` above 4094 faults, reads nothing, advances nothing, ticks nothing. That it is the fetch
that faults is the spec's decision D9, the state it leaves its decision D11. -/
def Obligations.FetchOutOfRangeFaults : Prop :=
  ∀ s : State, s.mode = .running → 4094 < s.pc.toNat →
    ∃ t, step s = .next t ∧ t.mode = .faulted ∧ t.faultCause = some .pcOutOfRange ∧
      ChangesOnly s t (.mode :: .faultCause :: hostParts)

/-- R128: an AwaitingKey cycle with no key held changes nothing but the inputs it was given. The cycle's accounting is the
spec's decision D20. -/
def Obligations.ParkedCycleChangesNothing : Prop :=
  ∀ s : State, s.mode = .awaitingKey → s.sampleInputs.key = 0 →
    ∃ t, step s = .next t ∧ ChangesOnly s t hostParts

/-- R128: an AwaitingKey cycle in which `k` is the least key held writes `k` to `V[wait_reg]` and makes the core Running;
no fetch, no tick. Level and lowest index are the spec's decision D19, the accounting its decision D20. -/
def Obligations.WakingCycleWritesLeastKey : Prop :=
  ∀ (s : State) (k : Reg), s.mode = .awaitingKey → s.sampleInputs.key.getLsbD k.val = true →
    (∀ j : Reg, j < k → s.sampleInputs.key.getLsbD j.val = false) →
    ∃ t, step s = .next t ∧ (t.getV s.waitReg).toNat = k.val ∧ t.mode = .running ∧
      RegistersChangeOnly s t [s.waitReg] ∧ ChangesOnly s t (.v :: .mode :: hostParts)

/-- R129: a Faulted cycle changes nothing. The spec's decision D13. -/
def Obligations.FaultedCycleChangesNothing : Prop :=
  ∀ s : State, s.mode = .faulted → step s = .next s

/-- R127: the tick comes after the execute step, acts on the values it left, on each timer by itself, saturates at 0, and
happens in every Running cycle that does not fault and in no other cycle. That it happens for unknown words and in the
cycle of an FX0A is the spec's decisions D30 and D20. -/
def Obligations.TimersTickAfterExecute : Prop :=
  (∀ s u : State, s.mode = .running → s.pc.toNat ≤ 4094 →
    exec (decodeWord s.fetchWord) s.sampleInputs.advance = .next u → u.mode ≠ .faulted →
    ∃ t, step s = .next t ∧ t.dt.toNat = u.dt.toNat - 1 ∧ t.st.toNat = u.st.toNat - 1 ∧
      ChangesOnly u t [.dt, .st]) ∧
  (∀ s t : State, step s = .next t → s.mode ≠ .running ∨ t.mode = .faulted →
    t.dt = s.dt ∧ t.st = s.st)

/-- R196: the timers count completed instructions: each takes one off each nonzero timer, whichever instruction it is, but
for the one that sets that timer. -/
def Obligations.TimersCountInstructions : Prop :=
  ∀ s t : State, s.mode = .running → step s = .next t → t.mode ≠ .faulted →
    ((∀ x, decodeWord s.fetchWord ≠ .ldDt x) → t.dt.toNat = s.dt.toNat - 1) ∧
    ((∀ x, decodeWord s.fetchWord ≠ .ldSt x) → t.st.toNat = s.st.toNat - 1)

/-- R30: the transitions of `mode`. Nothing leaves Faulted; an AwaitingKey cycle cannot fault and ends exactly when a key
is held; a Running cycle parks exactly when it executes an FX0A. The representation is the spec's decision D2. -/
def Obligations.ModeTransitions : Prop :=
  ∀ s t : State, step s = .next t →
    (s.mode = .faulted → t.mode = .faulted) ∧
    (s.mode = .awaitingKey → t.mode ≠ .faulted ∧ (t.mode = .running ↔ s.sampleInputs.key ≠ 0)) ∧
    (s.mode = .running →
      (t.mode = .awaitingKey ↔ s.pc.toNat ≤ 4094 ∧ ∃ x, decodeWord s.fetchWord = .ldK x))

/-! ### Whole-machine rules -/

/-- R210, R212, R214, R215: a Running cycle that can fetch faults exactly when the table of R210 says so, with that cause,
and then leaves every piece of state as it was but `pc` (advanced), `mode` and `fault_cause`. The state left is the spec's
decision D11, the range check its decision D10, the key index its decision D21. -/
def Obligations.ExecuteFaultsExactAndPrecise : Prop :=
  ∀ s : State, s.mode = .running → s.pc.toNat ≤ 4094 →
    (∀ cause, faultIn s (decodeWord s.fetchWord) = some cause →
      step s = .next { s.sampleInputs with
        pc := s.pc + 2, mode := .faulted, faultCause := some cause }) ∧
    (faultIn s (decodeWord s.fetchWord) = none →
      ∃ t, step s = .next t ∧ t.mode ≠ .faulted ∧ t.faultCause = s.faultCause)

/-- The columns 'written by' of spec/10_state.md §1 and R21: an instruction changes only the parts of the state it is
listed for, and no general register but its destination and, for the six flag writers, `VF`. -/
def Obligations.OnlyListedInstructionsWrite : Prop :=
  ∀ (i : Instr) (s t : State), exec i s = .next t →
    ChangesOnly s t (mayWrite s.config i) ∧ RegistersChangeOnly s t (destinations i)

/-- Every step keeps the invariant: `pc` at most 0x10FE (R23), live return addresses at most 4096 (R140), memory in its
canonical form, a cause recorded exactly while Faulted (R32). -/
def Obligations.StepKeepsInvariant : Prop :=
  ∀ s t : State, s.Inv → step s = .next t → t.Inv ∧ t.config = s.config

/-- The invariant holds after reset, whatever the parameters. -/
def Obligations.ResetMeetsInvariant : Prop :=
  ∀ c : Config, (State.resetWith c).Inv

/-! ### Memory (spec/20_memory.md) -/

/-- The model's own form of memory (log entry 8): two canonical memories that read the same everywhere are the same
list. -/
def Obligations.EqualReadsEqualMemories : Prop :=
  ∀ (c : Config) (m m' : Memory), Memory.wf c m → Memory.wf c m' →
    (∀ a, Memory.read c m a = Memory.read c m' a) → m = m'

/-- R61, R73: the word fetched is the two bytes last stored at `pc` and `pc + 1`, the high byte first. That an odd `pc` is
fetched like an even one is the spec's decision D8 (R62). -/
def Obligations.FetchSeesStores : Prop :=
  ∀ (s : State) (hi lo : Byte), s.pc.toNat ≤ 4094 →
    ((s.writeByte s.pc.toNat hi).writeByte (s.pc.toNat + 1) lo).fetchWord.toNat =
      256 * hi.toNat + lo.toNat

/-! ### Reset and ROM load (spec/70_reset_and_hazards.md) -/

/-- R240 to R245: the state after reset. The values are the spec's decisions D4, D5, D6; the parameters' defaults those of
R6 (D15, D16, D17; log entry 4), with no argument the font's 80 bytes are those of the table of R243 (D6, general
knowledge by the spec's own mark G1), digit 0 first. -/
def Obligations.ResetLeavesTheSpecsValues : Prop :=
  (∀ c : Config,
    let s := State.resetWith c
    (∀ k, s.getV k = 0) ∧ s.index = 0 ∧ s.pc = 0x0200 ∧ s.sp = 0 ∧ (∀ k : Fin 16, s.stack[k] = 0) ∧
    s.dt = 0 ∧ s.st = 0 ∧ s.key = 0 ∧ (∀ (row : Fin 32) (col : Fin 64), s.disp[row][col] = false) ∧
    s.mode = .running ∧ s.waitReg = 0 ∧ s.faultCause = none ∧
    (∀ k : Fin 80, s.readByte (0x050 + k.val) = c.fontTable[k]) ∧
    (∀ a, a < 0x050 ∨ 0x0A0 ≤ a → s.readByte a = 0)) ∧
  State.reset = State.resetWith Config.standard ∧
  Config.standard.shiftSrc = .vx ∧ Config.standard.jumpReg = .v0 ∧
  Config.standard.loadStoreIncI = false ∧
  (List.range 80).map (fun k => State.reset.readByte (0x050 + k)) =
    ([0xF0, 0x90, 0x90, 0x90, 0xF0] ++ [0x20, 0x60, 0x20, 0x20, 0x70] ++
     [0xF0, 0x10, 0xF0, 0x80, 0xF0] ++ [0xF0, 0x10, 0xF0, 0x10, 0xF0] ++
     [0x90, 0x90, 0xF0, 0x10, 0x10] ++ [0xF0, 0x80, 0xF0, 0x10, 0xF0] ++
     [0xF0, 0x80, 0xF0, 0x90, 0xF0] ++ [0xF0, 0x10, 0x20, 0x40, 0x40] ++
     [0xF0, 0x90, 0xF0, 0x90, 0xF0] ++ [0xF0, 0x90, 0xF0, 0x10, 0xF0] ++
     [0xF0, 0x90, 0xF0, 0x90, 0x90] ++ [0xE0, 0x90, 0xE0, 0x90, 0xE0] ++
     [0xF0, 0x80, 0x80, 0x80, 0xF0] ++ [0xE0, 0x90, 0x90, 0x90, 0xE0] ++
     [0xF0, 0x80, 0xF0, 0x80, 0xF0] ++ [0xF0, 0x80, 0xF0, 0x80, 0x80])

/-- R247: a ROM of 1 to 3584 bytes is copied verbatim to 0x200 into the reset state, and nothing else changes; any other
length is refused, which is the spec's decision D29 (log entry 10). -/
def Obligations.RomLoadCopiesVerbatim : Prop :=
  (∀ (c : Config) (rom : List Byte), 1 ≤ rom.length → rom.length ≤ 3584 →
    ∃ t, launch c rom = .next t ∧
      (∀ (k : Nat) (h : k < rom.length), t.readByte (0x200 + k) = rom[k]) ∧
      BytesChangeOnly (State.resetWith c) t 0x200 rom.length ∧
      ChangesOnly (State.resetWith c) t [.mem]) ∧
  (∀ (c : Config) (rom : List Byte), rom.length = 0 ∨ 3584 < rom.length →
    launch c rom = .refused .romLength)

/-! ### Control transfer (spec/41_flow.md) -/

/-- R140: 00EE pops `pc`; with an empty stack it faults with no other effect, and the cycle performs no tick. That no
other word is RET is the spec's decision D14, the state the fault leaves its decision D11. -/
def Obligations.ReturnPops : Prop :=
  (∀ w : Word, decodeWord w = .ret ↔ w = 0x00EE) ∧
  (∀ s : State, 0 < s.sp.val →
    ∃ t, exec .ret s = .next t ∧ t.sp.val = s.sp.val - 1 ∧
      (∀ k : Fin 16, k.val = s.sp.val - 1 → t.pc = s.stack[k]) ∧ ChangesOnly s t [.pc, .sp]) ∧
  (∀ s : State, s.sp.val = 0 →
    ∃ t, exec .ret s = .next t ∧ t.mode = .faulted ∧ t.faultCause = some .stackUnderflow ∧
      ChangesOnly s t [.mode, .faultCause]) ∧
  (∀ s : State, RunsNow s .ret → s.sp.val = 0 →
    ∃ t, step s = .next t ∧ t.pc = s.pc + 2 ∧ t.mode = .faulted ∧
      t.faultCause = some .stackUnderflow ∧ ChangesOnly s t (.pc :: .mode :: .faultCause :: hostParts))

/-- R141: 1NNN sets `pc` to `NNN`. -/
def Obligations.JumpSetsPc : Prop :=
  (∀ w : Word, opField w = 0x1 → decodeWord w = .jp (nnnField w)) ∧
  (∀ (s : State) (nnn : Addr),
    ∃ t, exec (.jp nnn) s = .next t ∧ t.pc.toNat = nnn.toNat ∧ ChangesOnly s t [.pc])

/-- R142: 2NNN pushes the advanced `pc` and sets `pc` to `NNN`; with a full stack it faults with no other effect, and the
cycle performs no tick. The state the fault leaves is the spec's decision D11. -/
def Obligations.CallPushes : Prop :=
  (∀ w : Word, opField w = 0x2 → decodeWord w = .call (nnnField w)) ∧
  (∀ (s : State) (nnn : Addr), s.sp.val < 16 →
    ∃ t, exec (.call nnn) s = .next t ∧ t.sp.val = s.sp.val + 1 ∧ t.pc.toNat = nnn.toNat ∧
      (∀ k : Fin 16, t.stack[k] = if k.val = s.sp.val then s.pc else s.stack[k]) ∧
      ChangesOnly s t [.pc, .sp, .stack]) ∧
  (∀ (s : State) (nnn : Addr), s.sp.val = 16 →
    ∃ t, exec (.call nnn) s = .next t ∧ t.mode = .faulted ∧ t.faultCause = some .stackOverflow ∧
      ChangesOnly s t [.mode, .faultCause]) ∧
  (∀ (s : State) (nnn : Addr), RunsNow s (.call nnn) → s.sp.val = 16 →
    ∃ t, step s = .next t ∧ t.pc = s.pc + 2 ∧ t.mode = .faulted ∧
      t.faultCause = some .stackOverflow ∧ ChangesOnly s t (.pc :: .mode :: .faultCause :: hostParts))

/-- R142's round trip: 2NNN, the fetch's advance, then 00EE leaves `pc`, `sp` and every live return address as before the
call (whose `pc` is already the advanced one). -/
def Obligations.CallThenReturnRestores : Prop :=
  ∀ (s : State) (nnn : Addr), s.sp.val < 16 →
    ∃ t u, exec (.call nnn) s = .next t ∧ exec .ret t.advance = .next u ∧
      ChangesOnly s u [.stack] ∧ (∀ k : Fin 16, k.val < s.sp.val → u.stack[k] = s.stack[k])

/-- R143: BNNN sets `pc` to `NNN` plus a register, neither wrapped nor masked. Which register is the parameter `JUMP_REG`
(the spec's decision D16); with `VX` it is the `X` field of the instruction's word. -/
def Obligations.JumpWithOffset : Prop :=
  ∀ (s : State) (nnn : Addr),
    ∃ t, exec (.jpV0 nnn) s = .next t ∧
      t.pc.toNat = nnn.toNat +
        (match s.config.jumpReg with
          | .v0 => s.getV 0
          | .vx => s.getV (xField (encode (.jpV0 nnn)))).toNat ∧
      ChangesOnly s t [.pc]

/-! ### Conditional skips (spec/42_skip.md) -/

/-- R150, R151: 3XNN skips when `V[X] = NN`, 4XNN when `V[X] != NN`. -/
def Obligations.SkipOnImmediate : Prop :=
  (∀ w : Word, opField w = 0x3 → decodeWord w = .seImm (xField w) (nnField w)) ∧
  (∀ w : Word, opField w = 0x4 → decodeWord w = .sneImm (xField w) (nnField w)) ∧
  (∀ (s : State) (x : Reg) (nn : Byte),
    (∃ t, exec (.seImm x nn) s = .next t ∧
      t.pc = (if s.getV x = nn then s.pc + 2 else s.pc) ∧ ChangesOnly s t [.pc]) ∧
    (∃ t, exec (.sneImm x nn) s = .next t ∧
      t.pc = (if s.getV x ≠ nn then s.pc + 2 else s.pc) ∧ ChangesOnly s t [.pc]))

/-- R152, R153: 5XY0 skips when `V[X] = V[Y]`, 9XY0 when they differ; with another low nibble the word is unknown, which
is the spec's decision D14. -/
def Obligations.SkipOnRegisters : Prop :=
  (∀ w : Word, opField w = 0x5 →
    decodeWord w = if nField w = 0x0 then .seReg (xField w) (yField w) else .unknown w) ∧
  (∀ w : Word, opField w = 0x9 →
    decodeWord w = if nField w = 0x0 then .sneReg (xField w) (yField w) else .unknown w) ∧
  (∀ (s : State) (x y : Reg),
    (∃ t, exec (.seReg x y) s = .next t ∧
      t.pc = (if s.getV x = s.getV y then s.pc + 2 else s.pc) ∧ ChangesOnly s t [.pc]) ∧
    (∃ t, exec (.sneReg x y) s = .next t ∧
      t.pc = (if s.getV x ≠ s.getV y then s.pc + 2 else s.pc) ∧ ChangesOnly s t [.pc]))

/-- R154, R155: EX9E skips when the key `V[X]` is held in this cycle, EXA1 when it is not; an index above 15 faults, which
is the spec's decision D21; the state the fault leaves is its decision D11. -/
def Obligations.SkipOnKey : Prop :=
  (∀ (s : State) (x : Reg), (s.getV x).toNat ≤ 15 →
    (∃ t, exec (.skp x) s = .next t ∧
      t.pc = (if s.key.getLsbD (s.getV x).toNat = true then s.pc + 2 else s.pc) ∧
      ChangesOnly s t [.pc]) ∧
    (∃ t, exec (.sknp x) s = .next t ∧
      t.pc = (if s.key.getLsbD (s.getV x).toNat = false then s.pc + 2 else s.pc) ∧
      ChangesOnly s t [.pc])) ∧
  (∀ (s : State) (x : Reg), 15 < (s.getV x).toNat →
    ∀ i ∈ [Instr.skp x, Instr.sknp x],
      ∃ t, exec i s = .next t ∧ t.mode = .faulted ∧ t.faultCause = some .keyIndexOutOfRange ∧
        ChangesOnly s t [.mode, .faultCause])

/-! ### Load, arithmetic, logic and shifts (spec/43_alu.md) -/

/-- R160: 6XNN loads `NN`. -/
def Obligations.LoadImmediate : Prop :=
  (∀ w : Word, opField w = 0x6 → decodeWord w = .ldImm (xField w) (nnField w)) ∧
  (∀ (s : State) (x : Reg) (nn : Byte),
    ∃ t, exec (.ldImm x nn) s = .next t ∧ t.getV x = nn ∧
      RegistersChangeOnly s t [x] ∧ ChangesOnly s t [.v])

/-- R161: 7XNN adds modulo 256 and writes no flag. -/
def Obligations.AddImmediate : Prop :=
  (∀ w : Word, opField w = 0x7 → decodeWord w = .addImm (xField w) (nnField w)) ∧
  (∀ (s : State) (x : Reg) (nn : Byte),
    ∃ t, exec (.addImm x nn) s = .next t ∧
      (t.getV x).toNat = ((s.getV x).toNat + nn.toNat) % 256 ∧
      RegistersChangeOnly s t [x] ∧ ChangesOnly s t [.v])

/-- R162 to R165: 8XY0, 8XY1, 8XY2, 8XY3 copy, or, and, exclusive-or, bit by bit; `VF` is left alone unless it is `V[X]`. -/
def Obligations.CopyAndLogic : Prop :=
  (∀ w : Word, opField w = 0x8 →
    (nField w = 0x0 → decodeWord w = .ldReg (xField w) (yField w)) ∧
    (nField w = 0x1 → decodeWord w = .orReg (xField w) (yField w)) ∧
    (nField w = 0x2 → decodeWord w = .andReg (xField w) (yField w)) ∧
    (nField w = 0x3 → decodeWord w = .xorReg (xField w) (yField w))) ∧
  (∀ (s : State) (x y : Reg),
    (∃ t, exec (.ldReg x y) s = .next t ∧ t.getV x = s.getV y ∧
      RegistersChangeOnly s t [x] ∧ ChangesOnly s t [.v]) ∧
    (∃ t, exec (.orReg x y) s = .next t ∧
      (∀ b, b < 8 → (t.getV x).getLsbD b = ((s.getV x).getLsbD b || (s.getV y).getLsbD b)) ∧
      RegistersChangeOnly s t [x] ∧ ChangesOnly s t [.v]) ∧
    (∃ t, exec (.andReg x y) s = .next t ∧
      (∀ b, b < 8 → (t.getV x).getLsbD b = ((s.getV x).getLsbD b && (s.getV y).getLsbD b)) ∧
      RegistersChangeOnly s t [x] ∧ ChangesOnly s t [.v]) ∧
    (∃ t, exec (.xorReg x y) s = .next t ∧
      (∀ b, b < 8 → (t.getV x).getLsbD b = ((s.getV x).getLsbD b ^^ (s.getV y).getLsbD b)) ∧
      RegistersChangeOnly s t [x] ∧ ChangesOnly s t [.v]))

/-- R166: 8XY4 writes the sum modulo 256 to `V[X]`, then the carry to `VF`; with `X = 15` the carry remains, which
is the spec's decision D18. -/
def Obligations.AddWithCarryOut : Prop :=
  (∀ w : Word, opField w = 0x8 → nField w = 0x4 → decodeWord w = .addReg (xField w) (yField w)) ∧
  (∀ (s : State) (x y : Reg),
    ∃ t, exec (.addReg x y) s = .next t ∧
      t.getV 15 = (if 255 < (s.getV x).toNat + (s.getV y).toNat then 0x01 else 0x00) ∧
      (x ≠ 15 → (t.getV x).toNat = ((s.getV x).toNat + (s.getV y).toNat) % 256) ∧
      RegistersChangeOnly s t [x, 15] ∧ ChangesOnly s t [.v])

/-- R167: 8XY5 writes `V[X] - V[Y]` modulo 256 to `V[X]`, then NOT borrow to `VF`; with `X = 15` the flag
remains, which is the spec's decision D18. -/
def Obligations.SubtractWithNoBorrow : Prop :=
  (∀ w : Word, opField w = 0x8 → nField w = 0x5 → decodeWord w = .subReg (xField w) (yField w)) ∧
  (∀ (s : State) (x y : Reg),
    ∃ t, exec (.subReg x y) s = .next t ∧
      t.getV 15 = (if (s.getV y).toNat ≤ (s.getV x).toNat then 0x01 else 0x00) ∧
      (x ≠ 15 → ((t.getV x).toNat : Int) = ((s.getV x).toNat - (s.getV y).toNat : Int) % 256) ∧
      RegistersChangeOnly s t [x, 15] ∧ ChangesOnly s t [.v])

/-- R168: 8XY7 writes `V[Y] - V[X]` modulo 256 to `V[X]`, then NOT borrow to `VF`; with `X = 15` the flag
remains, which is the spec's decision D18. -/
def Obligations.ReverseSubtractWithNoBorrow : Prop :=
  (∀ w : Word, opField w = 0x8 → nField w = 0x7 → decodeWord w = .subnReg (xField w) (yField w)) ∧
  (∀ (s : State) (x y : Reg),
    ∃ t, exec (.subnReg x y) s = .next t ∧
      t.getV 15 = (if (s.getV x).toNat ≤ (s.getV y).toNat then 0x01 else 0x00) ∧
      (x ≠ 15 → ((t.getV x).toNat : Int) = ((s.getV y).toNat - (s.getV x).toNat : Int) % 256) ∧
      RegistersChangeOnly s t [x, 15] ∧ ChangesOnly s t [.v])

/-- R172: 8XY6 writes the source's low bit to `VF`, then half the source to `V[X]`; with `X = 15` the result remains. The
source register is the parameter `SHIFT_SRC` (the spec's decision D15), the order its decision D18. -/
def Obligations.ShiftRightByOne : Prop :=
  ∀ (s : State) (x y : Reg),
    let src := match s.config.shiftSrc with
      | .vx => s.getV x
      | .vy => s.getV y
    ∃ t, exec (.shr x y) s = .next t ∧ (t.getV x).toNat = src.toNat / 2 ∧
      (x ≠ 15 → (t.getV 15).toNat = src.toNat % 2) ∧
      RegistersChangeOnly s t [x, 15] ∧ ChangesOnly s t [.v]

/-- R173: 8XYE writes the source's high bit to `VF`, then twice the source modulo 256 to `V[X]`; with `X = 15` the result
remains. The source register is the parameter `SHIFT_SRC` (the spec's decision D15), the order its decision D18. -/
def Obligations.ShiftLeftByOne : Prop :=
  ∀ (s : State) (x y : Reg),
    let src := match s.config.shiftSrc with
      | .vx => s.getV x
      | .vy => s.getV y
    ∃ t, exec (.shl x y) s = .next t ∧ (t.getV x).toNat = (2 * src.toNat) % 256 ∧
      (x ≠ 15 → (t.getV 15).toNat = src.toNat / 128) ∧
      RegistersChangeOnly s t [x, 15] ∧ ChangesOnly s t [.v]

/-! ### Index register and memory transfer (spec/44_index_mem.md) -/

/-- R180: ANNN loads `I` with `NNN`. -/
def Obligations.LoadIndex : Prop :=
  (∀ w : Word, opField w = 0xA → decodeWord w = .ldI (nnnField w)) ∧
  (∀ (s : State) (nnn : Addr),
    ∃ t, exec (.ldI nnn) s = .next t ∧ t.index.toNat = nnn.toNat ∧ ChangesOnly s t [.index])

/-- R181: FX1E adds `V[X]` to `I` modulo 65536 and writes no flag. The modulus is the spec's decision D23. -/
def Obligations.AddToIndex : Prop :=
  ∀ (s : State) (x : Reg),
    ∃ t, exec (.addI x) s = .next t ∧
      t.index.toNat = (s.index.toNat + (s.getV x).toNat) % 65536 ∧ ChangesOnly s t [.index]

/-- R182: FX29 sets `I` to the address of the glyph of `V[X]`, not masked: the spec's decision D22. -/
def Obligations.PointAtGlyph : Prop :=
  ∀ (s : State) (x : Reg),
    ∃ t, exec (.ldF x) s = .next t ∧
      t.index.toNat = 0x050 + 5 * (s.getV x).toNat ∧ ChangesOnly s t [.index]

/-- R183: FX33 stores the decimal digits of `V[X]` at `I`, `I + 1`, `I + 2`; with `I` above 4093 it faults and stores
nothing: the check is the spec's decision D10, the state left its decision D11. -/
def Obligations.StoreDecimalDigits : Prop :=
  (∀ w : Word, opField w = 0xF → nnField w = 0x33 → decodeWord w = .ldB (xField w)) ∧
  (∀ (s : State) (x : Reg), s.index.toNat + 2 ≤ 4095 →
    ∃ t, exec (.ldB x) s = .next t ∧
      (t.readByte s.index.toNat).toNat = (s.getV x).toNat / 100 ∧
      (t.readByte (s.index.toNat + 1)).toNat = (s.getV x).toNat / 10 % 10 ∧
      (t.readByte (s.index.toNat + 2)).toNat = (s.getV x).toNat % 10 ∧
      BytesChangeOnly s t s.index.toNat 3 ∧ ChangesOnly s t [.mem]) ∧
  (∀ (s : State) (x : Reg), 4095 < s.index.toNat + 2 →
    ∃ t, exec (.ldB x) s = .next t ∧ t.mode = .faulted ∧ t.faultCause = some .memOutOfRange ∧
      ChangesOnly s t [.mode, .faultCause])

/-- R184: FX55 stores `V[0]` to `V[X]` from `I` on and changes no other byte; out of range it faults and stores nothing.
The step of `I` is the parameter `LOADSTORE_INC_I` (the spec's decision D17); the check is its decision D10, the state a
fault leaves its decision D11. -/
def Obligations.StoreRegisters : Prop :=
  (∀ (s : State) (x : Reg), s.index.toNat + x.val ≤ 4095 →
    ∃ t, exec (.storeRegs x) s = .next t ∧
      (∀ k : Reg, k ≤ x → t.readByte (s.index.toNat + k.val) = s.getV k) ∧
      BytesChangeOnly s t s.index.toNat (x.val + 1) ∧
      t.index.toNat = (if s.config.loadStoreIncI then s.index.toNat + x.val + 1 else s.index.toNat) ∧
      ChangesOnly s t [.mem, .index]) ∧
  (∀ (s : State) (x : Reg), 4095 < s.index.toNat + x.val →
    ∃ t, exec (.storeRegs x) s = .next t ∧ t.mode = .faulted ∧
      t.faultCause = some .memOutOfRange ∧ ChangesOnly s t [.mode, .faultCause])

/-- R185: FX65 loads `V[0]` to `V[X]` from `I` on and keeps the registers above; out of range it faults and loads nothing.
The step of `I` is the parameter `LOADSTORE_INC_I` (the spec's decision D17); the check is its decision D10, the state a
fault leaves its decision D11. -/
def Obligations.LoadRegisters : Prop :=
  (∀ (s : State) (x : Reg), s.index.toNat + x.val ≤ 4095 →
    ∃ t, exec (.loadRegs x) s = .next t ∧
      (∀ k : Reg, t.getV k = if k ≤ x then s.readByte (s.index.toNat + k.val) else s.getV k) ∧
      t.index.toNat = (if s.config.loadStoreIncI then s.index.toNat + x.val + 1 else s.index.toNat) ∧
      ChangesOnly s t [.v, .index]) ∧
  (∀ (s : State) (x : Reg), 4095 < s.index.toNat + x.val →
    ∃ t, exec (.loadRegs x) s = .next t ∧ t.mode = .faulted ∧
      t.faultCause = some .memOutOfRange ∧ ChangesOnly s t [.mode, .faultCause])

/-! ### Random, timers and key wait (spec/45_rand_timer_key.md), unknown words -/

/-- R190: CXNN loads `NN AND rand_in`, the random byte of its own cycle. That it is a free input of the cycle is the
spec's decision D26. -/
def Obligations.MaskedRandomByte : Prop :=
  (∀ (s : State) (x : Reg) (nn : Byte),
    ∃ t, exec (.rnd x nn) s = .next t ∧
      (∀ b, b < 8 → (t.getV x).getLsbD b = (nn.getLsbD b && s.rand.getLsbD b)) ∧
      RegistersChangeOnly s t [x] ∧ ChangesOnly s t [.v]) ∧
  (∀ (s : State) (x : Reg) (nn : Byte) (i : HostInput) (rest : List HostInput),
    RunsNow s (.rnd x nn) → s.inputs = i :: rest →
    ∃ t, step s = .next t ∧ t.getV x = nn &&& i.rand ∧ t.inputs = rest)

/-- R191: FX07 loads `DT`, the value before its own cycle's tick. -/
def Obligations.ReadDelayTimer : Prop :=
  (∀ w : Word, opField w = 0xF → nnField w = 0x07 → decodeWord w = .ldVDt (xField w)) ∧
  (∀ (s : State) (x : Reg),
    ∃ t, exec (.ldVDt x) s = .next t ∧ t.getV x = s.dt ∧
      RegistersChangeOnly s t [x] ∧ ChangesOnly s t [.v]) ∧
  (∀ (s : State) (x : Reg), RunsNow s (.ldVDt x) →
    ∃ t, step s = .next t ∧ t.getV x = s.dt ∧ t.dt.toNat = s.dt.toNat - 1)

/-- R192: FX15 sets `DT` to `V[X]`; the tick of the same cycle follows. -/
def Obligations.SetDelayTimer : Prop :=
  (∀ (s : State) (x : Reg),
    ∃ t, exec (.ldDt x) s = .next t ∧ t.dt = s.getV x ∧ ChangesOnly s t [.dt]) ∧
  (∀ (s : State) (x : Reg), RunsNow s (.ldDt x) →
    ∃ t, step s = .next t ∧ t.dt.toNat = (s.getV x).toNat - 1 ∧ t.st.toNat = s.st.toNat - 1)

/-- R193: FX18 sets `ST` to `V[X]`; the tick of the same cycle follows. -/
def Obligations.SetSoundTimer : Prop :=
  (∀ w : Word, opField w = 0xF → nnField w = 0x18 → decodeWord w = .ldSt (xField w)) ∧
  (∀ (s : State) (x : Reg),
    ∃ t, exec (.ldSt x) s = .next t ∧ t.st = s.getV x ∧ ChangesOnly s t [.st]) ∧
  (∀ (s : State) (x : Reg), RunsNow s (.ldSt x) →
    ∃ t, step s = .next t ∧ t.st.toNat = (s.getV x).toNat - 1 ∧ t.dt.toNat = s.dt.toNat - 1)

/-- R194, R195: FX0A records `X` and parks the core without looking at the keypad; its cycle advances `pc` and ticks once.
The cycle's accounting is the spec's decision D20. -/
def Obligations.KeyWaitParks : Prop :=
  (∀ (s : State) (x : Reg),
    ∃ t, exec (.ldK x) s = .next t ∧ t.waitReg = x ∧ t.mode = .awaitingKey ∧
      ChangesOnly s t [.waitReg, .mode]) ∧
  (∀ (s : State) (x : Reg), RunsNow s (.ldK x) →
    ∃ t, step s = .next t ∧ t.waitReg = x ∧ t.mode = .awaitingKey ∧ t.pc = s.pc + 2 ∧
      t.dt.toNat = s.dt.toNat - 1 ∧ t.st.toNat = s.st.toNat - 1 ∧
      ChangesOnly s t (.pc :: .dt :: .st :: .waitReg :: .mode :: hostParts))

/-- R100: an unknown word is a no-operation: its cycle advances `pc` by 2 and ticks the timers like any other, changes
nothing else and raises no fault. Which words are unknown is the spec's decision D14, the tick its decision D30. -/
def Obligations.UnknownWordIsNoOperation : Prop :=
  (∀ (s : State) (w : Word), ∃ t, exec (.unknown w) s = .next t ∧ ChangesOnly s t []) ∧
  (∀ s : State, s.mode = .running → s.pc.toNat ≤ 4094 →
    (∀ r ∈ opcodeMap, ¬ s.fetchWord &&& r.mask = r.value) →
    ∃ t, step s = .next t ∧ t.pc = s.pc + 2 ∧ t.dt.toNat = s.dt.toNat - 1 ∧
      t.st.toNat = s.st.toNat - 1 ∧ ChangesOnly s t (.pc :: .dt :: .st :: hostParts))

/-! ### Display (spec/46_display.md) -/

/-- R200: 00E0 turns every cell off and changes nothing else. That no other word is CLS is the spec's decision D14. -/
def Obligations.ClearDisplay : Prop :=
  (∀ w : Word, decodeWord w = .cls ↔ w = 0x00E0) ∧
  (∀ s : State,
    ∃ t, exec .cls s = .next t ∧ (∀ (row : Fin 32) (col : Fin 64), t.disp[row][col] = false) ∧
      ChangesOnly s t [.disp])

/-- R201, R203, R204, R206: DXYN exclusive-ors each cell with its sprite bit, clipped and not wrapped; `VF` is 1 exactly
when some cell that was on has a 1 bit on it; out of range it faults with no effect, and with `N = 0` it cannot. The order
of bits in a byte is the spec's decision D24, `N = 0` its decision D25, the whole-range check its decision D10, the state a
fault leaves its decision D11. -/
def Obligations.DrawIsCellwiseXor : Prop :=
  (∀ (s : State) (x y : Reg) (n : Nibble), n.toNat = 0 ∨ s.index.toNat + n.toNat - 1 ≤ 4095 →
    ∃ t, exec (.drw x y n) s = .next t ∧
      (∀ (row : Fin 32) (col : Fin 64),
        t.disp[row][col] = (s.disp[row][col] ^^ spriteBit s x y n row col)) ∧
      (t.getV 15 = 0x00 ∨ t.getV 15 = 0x01) ∧
      (t.getV 15 = 0x01 ↔ ∃ (row : Fin 32) (col : Fin 64),
        s.disp[row][col] = true ∧ spriteBit s x y n row col = true) ∧
      RegistersChangeOnly s t [15] ∧ ChangesOnly s t [.v, .disp]) ∧
  (∀ (s : State) (x y : Reg) (n : Nibble), 0 < n.toNat → 4095 < s.index.toNat + n.toNat - 1 →
    ∃ t, exec (.drw x y n) s = .next t ∧ t.mode = .faulted ∧ t.faultCause = some .memOutOfRange ∧
      ChangesOnly s t [.mode, .faultCause])

/-- R204 (d): drawing the same sprite twice at the same place restores the display, and the second draw collides exactly
when some 1 bit of the sprite lands on a cell that was off before the first. Neither coordinate register is `VF`, which
the first draw overwrites. It rests on the spec's decisions D24 and D25 as the draw does. -/
def Obligations.DrawTwiceRestores : Prop :=
  ∀ (s : State) (x y : Reg) (n : Nibble), x ≠ 15 → y ≠ 15 →
    n.toNat = 0 ∨ s.index.toNat + n.toNat - 1 ≤ 4095 →
    ∃ t u, exec (.drw x y n) s = .next t ∧ exec (.drw x y n) t = .next u ∧ u.disp = s.disp ∧
      (u.getV 15 = 0x01 ↔ ∃ (row : Fin 32) (col : Fin 64),
        s.disp[row][col] = false ∧ spriteBit s x y n row col = true)

/-! ### The end of a run (spec/00_scope.md R19) -/

/-- R19, R141: a jump to itself is an ordinary endless execution: its cycle ticks each timer, changes nothing else, and the
next cycle executes it again. -/
def Obligations.SelfJumpLoopsAndTicks : Prop :=
  ∀ s : State, s.atSelfJump = true →
    ∃ t, step s = .next t ∧ t.atSelfJump = true ∧ t.dt.toNat = s.dt.toNat - 1 ∧ t.st.toNat = s.st.toNat - 1 ∧
      ChangesOnly s t (.dt :: .st :: hostParts)

/-- The model's end of a run, which R19 asks a model to define (log entry 16): a run of at most `n` cycles is the first `k`
of them, none of the states before has an ending, and it stops there because that state is Faulted or is at a jump to
itself, or because the host ceases after `n`. -/
def Obligations.RunEndsAtFirstEnding : Prop :=
  ∀ (s : State) (n : Nat), ∃ (k : Nat) (t : State), k ≤ n ∧ s.run n = .next t ∧ s.cycles k = .next t ∧
    (∀ j, j < k → ∃ u, s.cycles j = .next u ∧ u.mode ≠ .faulted ∧ u.atSelfJump = false) ∧
    (k = n ∨ t.mode = .faulted ∨ t.atSelfJump = true)
end

