-- ==== Sys2Proof/Laws/Decode.lean ====
section
/-! SUPPORT. The fields of a word against the formats it is written in (spec/30_encoding.md R91, R92), through the numbers they
stand for. -/

namespace Sys2Proof

/-! ### Fields and formats as numbers -/

theorem opField_toNat (w : Word) : (opField w).toNat = w.toNat / 4096 := by
  have := w.isLt
  simp [opField, Nat.shiftRight_eq_div_pow]; omega

theorem xField_val (w : Word) : (xField w).val = w.toNat / 256 % 16 := by
  simp [xField, Nat.shiftRight_eq_div_pow]

theorem yField_val (w : Word) : (yField w).val = w.toNat / 16 % 16 := by
  simp [yField, Nat.shiftRight_eq_div_pow]

theorem nField_toNat (w : Word) : (nField w).toNat = w.toNat % 16 := by
  simp [nField]

theorem nnField_toNat (w : Word) : (nnField w).toNat = w.toNat % 256 := by
  simp [nnField]

theorem nnnField_toNat (w : Word) : (nnnField w).toNat = w.toNat % 4096 := by
  simp [nnnField]

/-- A concatenation as a number. -/
theorem append_toNat {n m : Nat} (a : BitVec n) (b : BitVec m) : (a ++ b).toNat = a.toNat * 2 ^ m + b.toNat := by
  rw [BitVec.toNat_append, ← Nat.shiftLeft_add_eq_or_of_lt b.isLt, Nat.shiftLeft_eq]

theorem formatA_toNat (op : Nibble) (nnn : Addr) : (formatA op nnn).toNat = op.toNat * 4096 + nnn.toNat :=
  append_toNat op nnn

theorem formatXI_toNat (op : Nibble) (x : Reg) (nn : Byte) :
    (formatXI op x nn).toNat = op.toNat * 4096 + x.val * 256 + nn.toNat := by
  refine (append_toNat (op ++ BitVec.ofFin (w := 4) x) nn).trans ?_
  rw [append_toNat]; simp; omega

theorem formatXY_toNat (op : Nibble) (x y : Reg) (n : Nibble) :
    (formatXY op x y n).toNat = op.toNat * 4096 + x.val * 256 + y.val * 16 + n.toNat := by
  refine (append_toNat (op ++ BitVec.ofFin (w := 4) x ++ BitVec.ofFin (w := 4) y) n).trans ?_
  rw [append_toNat, append_toNat]; simp; omega

theorem wordOfBytes_toNat (hi lo : Byte) : (wordOfBytes hi lo).toNat = hi.toNat * 256 + lo.toNat :=
  append_toNat hi lo

/-! ### Reading the fields of a written format -/

@[simp] theorem opField_formatA (op : Nibble) (nnn : Addr) : opField (formatA op nnn) = op := by
  apply BitVec.eq_of_toNat_eq; rw [opField_toNat, formatA_toNat]; omega

@[simp] theorem nnnField_formatA (op : Nibble) (nnn : Addr) : nnnField (formatA op nnn) = nnn := by
  apply BitVec.eq_of_toNat_eq; rw [nnnField_toNat, formatA_toNat]; omega

@[simp] theorem xField_formatA (op : Nibble) (nnn : Addr) : (xField (formatA op nnn)).val = nnn.toNat / 256 := by
  rw [xField_val, formatA_toNat]; omega

@[simp] theorem opField_formatXI (op : Nibble) (x : Reg) (nn : Byte) : opField (formatXI op x nn) = op := by
  apply BitVec.eq_of_toNat_eq; rw [opField_toNat, formatXI_toNat]; omega

@[simp] theorem xField_formatXI (op : Nibble) (x : Reg) (nn : Byte) : xField (formatXI op x nn) = x := by
  apply Fin.ext; rw [xField_val, formatXI_toNat]; omega

@[simp] theorem nnField_formatXI (op : Nibble) (x : Reg) (nn : Byte) : nnField (formatXI op x nn) = nn := by
  apply BitVec.eq_of_toNat_eq; rw [nnField_toNat, formatXI_toNat]; omega

@[simp] theorem opField_formatXY (op : Nibble) (x y : Reg) (n : Nibble) : opField (formatXY op x y n) = op := by
  apply BitVec.eq_of_toNat_eq; rw [opField_toNat, formatXY_toNat]; omega

@[simp] theorem xField_formatXY (op : Nibble) (x y : Reg) (n : Nibble) : xField (formatXY op x y n) = x := by
  apply Fin.ext; rw [xField_val, formatXY_toNat]; omega

@[simp] theorem yField_formatXY (op : Nibble) (x y : Reg) (n : Nibble) : yField (formatXY op x y n) = y := by
  apply Fin.ext; rw [yField_val, formatXY_toNat]; omega

@[simp] theorem nField_formatXY (op : Nibble) (x y : Reg) (n : Nibble) : nField (formatXY op x y n) = n := by
  apply BitVec.eq_of_toNat_eq; rw [nField_toNat, formatXY_toNat]; omega

/-! ### A word is its fields -/

theorem formatA_fields (w : Word) : formatA (opField w) (nnnField w) = w := by
  apply BitVec.eq_of_toNat_eq; rw [formatA_toNat, opField_toNat, nnnField_toNat]; omega

theorem formatXI_fields (w : Word) : formatXI (opField w) (xField w) (nnField w) = w := by
  apply BitVec.eq_of_toNat_eq; rw [formatXI_toNat, opField_toNat, xField_val, nnField_toNat]; omega

theorem formatXY_fields (w : Word) : formatXY (opField w) (xField w) (yField w) (nField w) = w := by
  apply BitVec.eq_of_toNat_eq
  rw [formatXY_toNat, opField_toNat, xField_val, yField_val, nField_toNat]; omega

theorem wordOfBytes_bytes (w : Word) : wordOfBytes (w.extractLsb' 8 8) (w.extractLsb' 0 8) = w := by
  have := w.isLt
  apply BitVec.eq_of_toNat_eq; rw [wordOfBytes_toNat]
  simp [Nat.shiftRight_eq_div_pow]; omega

/-- The bytes of a word decode to the word's instruction (R61, R90). -/
theorem decode_bytesOfWord (w : Word) : decode (bytesOfWord w) = .instr (decodeWord w) [] := by
  simp [decode, bytesOfWord, wordOfBytes_bytes]

/-! ### A row's mask compares fields -/

theorem formatA_getLsbD (op : Nibble) (nnn : Addr) (i : Nat) :
    (formatA op nnn).getLsbD i = if i < 12 then nnn.getLsbD i else op.getLsbD (i - 12) :=
  BitVec.getLsbD_append

theorem formatXI_getLsbD (op : Nibble) (x : Reg) (nn : Byte) (i : Nat) :
    (formatXI op x nn).getLsbD i =
      if i < 8 then nn.getLsbD i
      else if i < 12 then (BitVec.ofFin (w := 4) x).getLsbD (i - 8) else op.getLsbD (i - 12) := by
  refine (BitVec.getLsbD_append (x := op ++ BitVec.ofFin (w := 4) x) (y := nn)).trans ?_
  rw [BitVec.getLsbD_append, Nat.sub_sub]
  simp only [show (i - 8 < 4) = (i < 12) by simp; omega]

theorem formatXY_getLsbD (op : Nibble) (x y : Reg) (n : Nibble) (i : Nat) :
    (formatXY op x y n).getLsbD i =
      if i < 4 then n.getLsbD i
      else if i < 8 then (BitVec.ofFin (w := 4) y).getLsbD (i - 4)
      else if i < 12 then (BitVec.ofFin (w := 4) x).getLsbD (i - 8) else op.getLsbD (i - 12) := by
  refine (BitVec.getLsbD_append (x := op ++ BitVec.ofFin (w := 4) x ++ BitVec.ofFin (w := 4) y) (y := n)).trans ?_
  rw [BitVec.getLsbD_append, BitVec.getLsbD_append, Nat.sub_sub, Nat.sub_sub]
  simp only [show (i - 4 < 4) = (i < 8) by simp; omega, show (i - (4 + 4) < 4) = (i < 12) by simp; omega]

/-- Under the mask 0xF000 a word keeps its top nibble. -/
theorem and_F000 (w : Word) : w &&& 0xF000 = formatA (opField w) 0 := by
  apply BitVec.eq_of_getLsbD_eq
  intro i h
  rw [formatA_getLsbD]
  interval_cases i <;> simp [opField]

/-- Under the mask 0xF00F a word keeps its top and its low nibble. -/
theorem and_F00F (w : Word) : w &&& 0xF00F = formatXY (opField w) 0 0 (nField w) := by
  apply BitVec.eq_of_getLsbD_eq
  intro i h
  rw [formatXY_getLsbD]
  interval_cases i <;> simp [opField, nField]

/-- Under the mask 0xF0FF a word keeps its top nibble and its low byte. -/
theorem and_F0FF (w : Word) : w &&& 0xF0FF = formatXI (opField w) 0 (nnField w) := by
  apply BitVec.eq_of_getLsbD_eq
  intro i h
  rw [formatXI_getLsbD]
  interval_cases i <;> simp [opField, nnField]

/-- Under the mask 0xFFFF a word keeps every bit. -/
theorem and_FFFF (w : Word) : w &&& 0xFFFF = w := by
  have h : (0xFFFF : Word) = BitVec.allOnes 16 := by decide
  rw [h, BitVec.and_allOnes]

theorem formatA_inj (op op' : Nibble) (nnn nnn' : Addr) :
    formatA op nnn = formatA op' nnn' ↔ op = op' ∧ nnn = nnn' :=
  ⟨fun h => ⟨by simpa using congrArg opField h, by simpa using congrArg nnnField h⟩, by rintro ⟨rfl, rfl⟩; rfl⟩

theorem formatXI_inj (op op' : Nibble) (x x' : Reg) (nn nn' : Byte) :
    formatXI op x nn = formatXI op' x' nn' ↔ op = op' ∧ x = x' ∧ nn = nn' :=
  ⟨fun h => ⟨by simpa using congrArg opField h, by simpa using congrArg xField h,
    by simpa using congrArg nnField h⟩, by rintro ⟨rfl, rfl, rfl⟩; rfl⟩

theorem formatXY_inj (op op' : Nibble) (x x' y y' : Reg) (n n' : Nibble) :
    formatXY op x y n = formatXY op' x' y' n' ↔ op = op' ∧ x = x' ∧ y = y' ∧ n = n' :=
  ⟨fun h => ⟨by simpa using congrArg opField h, by simpa using congrArg xField h,
    by simpa using congrArg yField h, by simpa using congrArg nField h⟩, by rintro ⟨rfl, rfl, rfl, rfl⟩; rfl⟩

/-- A row of mask 0xF000 matches exactly the words of its top nibble. -/
theorem matches_F000 (w : Word) (op : Nibble) : w &&& 0xF000 = formatA op 0 ↔ opField w = op := by
  rw [and_F000, formatA_inj]; simp

/-- A row of mask 0xF00F matches exactly the words of its top and low nibble. -/
theorem matches_F00F (w : Word) (op n : Nibble) :
    w &&& 0xF00F = formatXY op 0 0 n ↔ opField w = op ∧ nField w = n := by
  rw [and_F00F, formatXY_inj]; simp

/-- A row of mask 0xF0FF matches exactly the words of its top nibble and low byte. -/
theorem matches_F0FF (w : Word) (op : Nibble) (nn : Byte) :
    w &&& 0xF0FF = formatXI op 0 nn ↔ opField w = op ∧ nnField w = nn := by
  rw [and_F0FF, formatXI_inj]; simp

/-! ### The dispatch on the top nibble (R96), one lemma per family -/

/-- The sixteen values of a nibble. -/
theorem nibble_cases (n : Nibble) : n = 0x0 ∨ n = 0x1 ∨ n = 0x2 ∨ n = 0x3 ∨ n = 0x4 ∨ n = 0x5 ∨ n = 0x6 ∨ n = 0x7 ∨
    n = 0x8 ∨ n = 0x9 ∨ n = 0xA ∨ n = 0xB ∨ n = 0xC ∨ n = 0xD ∨ n = 0xE ∨ n = 0xF := by
  revert n; decide

section Families

variable {w : Word}

theorem decodeWord_family0 (h : opField w = 0x0) : decodeWord w = decode0 w := by simp [decodeWord, h]

theorem decodeWord_family1 (h : opField w = 0x1) : decodeWord w = .jp (nnnField w) := by simp [decodeWord, h]

theorem decodeWord_family2 (h : opField w = 0x2) : decodeWord w = .call (nnnField w) := by simp [decodeWord, h]

theorem decodeWord_family3 (h : opField w = 0x3) : decodeWord w = .seImm (xField w) (nnField w) := by simp [decodeWord, h]

theorem decodeWord_family4 (h : opField w = 0x4) : decodeWord w = .sneImm (xField w) (nnField w) := by simp [decodeWord, h]

theorem decodeWord_family5 (h : opField w = 0x5) : decodeWord w = decode5 w := by simp [decodeWord, h]

theorem decodeWord_family6 (h : opField w = 0x6) : decodeWord w = .ldImm (xField w) (nnField w) := by simp [decodeWord, h]

theorem decodeWord_family7 (h : opField w = 0x7) : decodeWord w = .addImm (xField w) (nnField w) := by simp [decodeWord, h]

theorem decodeWord_family8 (h : opField w = 0x8) : decodeWord w = decode8 w := by simp [decodeWord, h]

theorem decodeWord_family9 (h : opField w = 0x9) : decodeWord w = decode9 w := by simp [decodeWord, h]

theorem decodeWord_familyA (h : opField w = 0xA) : decodeWord w = .ldI (nnnField w) := by simp [decodeWord, h]

theorem decodeWord_familyB (h : opField w = 0xB) : decodeWord w = .jpV0 (nnnField w) := by simp [decodeWord, h]

theorem decodeWord_familyC (h : opField w = 0xC) : decodeWord w = .rnd (xField w) (nnField w) := by simp [decodeWord, h]

theorem decodeWord_familyD (h : opField w = 0xD) : decodeWord w = .drw (xField w) (yField w) (nField w) := by simp [decodeWord, h]

theorem decodeWord_familyE (h : opField w = 0xE) : decodeWord w = decodeE w := by simp [decodeWord, h]

theorem decodeWord_familyF (h : opField w = 0xF) : decodeWord w = decodeF w := by simp [decodeWord, h]

end Families

end Sys2Proof
end

