-- ==== Sys2Proof/Laws/State.lean ====
section
/-! SUPPORT. One lemma per field of `State` per update, so that no later proof unfolds a record update; beside the fields, the
two reads `getV` and `readByte`, and the fetch. -/

namespace Sys2Proof.Machine

variable (s : State)

/-! ### `State.setV` -/

@[simp] theorem State.setV_v (x : Reg) (b : Byte) : (s.setV x b).v = (s.v.set x b) := rfl
@[simp] theorem State.setV_index (x : Reg) (b : Byte) : (s.setV x b).index = s.index := rfl
@[simp] theorem State.setV_pc (x : Reg) (b : Byte) : (s.setV x b).pc = s.pc := rfl
@[simp] theorem State.setV_stack (x : Reg) (b : Byte) : (s.setV x b).stack = s.stack := rfl
@[simp] theorem State.setV_sp (x : Reg) (b : Byte) : (s.setV x b).sp = s.sp := rfl
@[simp] theorem State.setV_dt (x : Reg) (b : Byte) : (s.setV x b).dt = s.dt := rfl
@[simp] theorem State.setV_st (x : Reg) (b : Byte) : (s.setV x b).st = s.st := rfl
@[simp] theorem State.setV_key (x : Reg) (b : Byte) : (s.setV x b).key = s.key := rfl
@[simp] theorem State.setV_mem (x : Reg) (b : Byte) : (s.setV x b).mem = s.mem := rfl
@[simp] theorem State.setV_disp (x : Reg) (b : Byte) : (s.setV x b).disp = s.disp := rfl
@[simp] theorem State.setV_mode (x : Reg) (b : Byte) : (s.setV x b).mode = s.mode := rfl
@[simp] theorem State.setV_waitReg (x : Reg) (b : Byte) : (s.setV x b).waitReg = s.waitReg := rfl
@[simp] theorem State.setV_faultCause (x : Reg) (b : Byte) : (s.setV x b).faultCause = s.faultCause := rfl
@[simp] theorem State.setV_config (x : Reg) (b : Byte) : (s.setV x b).config = s.config := rfl
@[simp] theorem State.setV_rand (x : Reg) (b : Byte) : (s.setV x b).rand = s.rand := rfl
@[simp] theorem State.setV_inputs (x : Reg) (b : Byte) : (s.setV x b).inputs = s.inputs := rfl
@[simp] theorem State.setV_draws (x : Reg) (b : Byte) : (s.setV x b).draws = s.draws := rfl
@[simp] theorem State.setV_readByte (x : Reg) (b : Byte) (m : Nat) : (s.setV x b).readByte m = s.readByte m := rfl
@[simp] theorem State.setV_fetchWord (x : Reg) (b : Byte) : (s.setV x b).fetchWord = s.fetchWord := rfl

/-! ### `State.setIndex` -/

@[simp] theorem State.setIndex_v (w : Word) : (s.setIndex w).v = s.v := rfl
@[simp] theorem State.setIndex_index (w : Word) : (s.setIndex w).index = w := rfl
@[simp] theorem State.setIndex_pc (w : Word) : (s.setIndex w).pc = s.pc := rfl
@[simp] theorem State.setIndex_stack (w : Word) : (s.setIndex w).stack = s.stack := rfl
@[simp] theorem State.setIndex_sp (w : Word) : (s.setIndex w).sp = s.sp := rfl
@[simp] theorem State.setIndex_dt (w : Word) : (s.setIndex w).dt = s.dt := rfl
@[simp] theorem State.setIndex_st (w : Word) : (s.setIndex w).st = s.st := rfl
@[simp] theorem State.setIndex_key (w : Word) : (s.setIndex w).key = s.key := rfl
@[simp] theorem State.setIndex_mem (w : Word) : (s.setIndex w).mem = s.mem := rfl
@[simp] theorem State.setIndex_disp (w : Word) : (s.setIndex w).disp = s.disp := rfl
@[simp] theorem State.setIndex_mode (w : Word) : (s.setIndex w).mode = s.mode := rfl
@[simp] theorem State.setIndex_waitReg (w : Word) : (s.setIndex w).waitReg = s.waitReg := rfl
@[simp] theorem State.setIndex_faultCause (w : Word) : (s.setIndex w).faultCause = s.faultCause := rfl
@[simp] theorem State.setIndex_config (w : Word) : (s.setIndex w).config = s.config := rfl
@[simp] theorem State.setIndex_rand (w : Word) : (s.setIndex w).rand = s.rand := rfl
@[simp] theorem State.setIndex_inputs (w : Word) : (s.setIndex w).inputs = s.inputs := rfl
@[simp] theorem State.setIndex_draws (w : Word) : (s.setIndex w).draws = s.draws := rfl
@[simp] theorem State.setIndex_getV (w : Word) (k : Reg) : (s.setIndex w).getV k = s.getV k := rfl
@[simp] theorem State.setIndex_readByte (w : Word) (m : Nat) : (s.setIndex w).readByte m = s.readByte m := rfl
@[simp] theorem State.setIndex_fetchWord (w : Word) : (s.setIndex w).fetchWord = s.fetchWord := rfl

/-! ### `State.setPc` -/

@[simp] theorem State.setPc_v (w : Word) : (s.setPc w).v = s.v := rfl
@[simp] theorem State.setPc_index (w : Word) : (s.setPc w).index = s.index := rfl
@[simp] theorem State.setPc_pc (w : Word) : (s.setPc w).pc = w := rfl
@[simp] theorem State.setPc_stack (w : Word) : (s.setPc w).stack = s.stack := rfl
@[simp] theorem State.setPc_sp (w : Word) : (s.setPc w).sp = s.sp := rfl
@[simp] theorem State.setPc_dt (w : Word) : (s.setPc w).dt = s.dt := rfl
@[simp] theorem State.setPc_st (w : Word) : (s.setPc w).st = s.st := rfl
@[simp] theorem State.setPc_key (w : Word) : (s.setPc w).key = s.key := rfl
@[simp] theorem State.setPc_mem (w : Word) : (s.setPc w).mem = s.mem := rfl
@[simp] theorem State.setPc_disp (w : Word) : (s.setPc w).disp = s.disp := rfl
@[simp] theorem State.setPc_mode (w : Word) : (s.setPc w).mode = s.mode := rfl
@[simp] theorem State.setPc_waitReg (w : Word) : (s.setPc w).waitReg = s.waitReg := rfl
@[simp] theorem State.setPc_faultCause (w : Word) : (s.setPc w).faultCause = s.faultCause := rfl
@[simp] theorem State.setPc_config (w : Word) : (s.setPc w).config = s.config := rfl
@[simp] theorem State.setPc_rand (w : Word) : (s.setPc w).rand = s.rand := rfl
@[simp] theorem State.setPc_inputs (w : Word) : (s.setPc w).inputs = s.inputs := rfl
@[simp] theorem State.setPc_draws (w : Word) : (s.setPc w).draws = s.draws := rfl
@[simp] theorem State.setPc_getV (w : Word) (k : Reg) : (s.setPc w).getV k = s.getV k := rfl
@[simp] theorem State.setPc_readByte (w : Word) (m : Nat) : (s.setPc w).readByte m = s.readByte m := rfl

/-! ### `State.setDt` -/

@[simp] theorem State.setDt_v (b : Byte) : (s.setDt b).v = s.v := rfl
@[simp] theorem State.setDt_index (b : Byte) : (s.setDt b).index = s.index := rfl
@[simp] theorem State.setDt_pc (b : Byte) : (s.setDt b).pc = s.pc := rfl
@[simp] theorem State.setDt_stack (b : Byte) : (s.setDt b).stack = s.stack := rfl
@[simp] theorem State.setDt_sp (b : Byte) : (s.setDt b).sp = s.sp := rfl
@[simp] theorem State.setDt_dt (b : Byte) : (s.setDt b).dt = b := rfl
@[simp] theorem State.setDt_st (b : Byte) : (s.setDt b).st = s.st := rfl
@[simp] theorem State.setDt_key (b : Byte) : (s.setDt b).key = s.key := rfl
@[simp] theorem State.setDt_mem (b : Byte) : (s.setDt b).mem = s.mem := rfl
@[simp] theorem State.setDt_disp (b : Byte) : (s.setDt b).disp = s.disp := rfl
@[simp] theorem State.setDt_mode (b : Byte) : (s.setDt b).mode = s.mode := rfl
@[simp] theorem State.setDt_waitReg (b : Byte) : (s.setDt b).waitReg = s.waitReg := rfl
@[simp] theorem State.setDt_faultCause (b : Byte) : (s.setDt b).faultCause = s.faultCause := rfl
@[simp] theorem State.setDt_config (b : Byte) : (s.setDt b).config = s.config := rfl
@[simp] theorem State.setDt_rand (b : Byte) : (s.setDt b).rand = s.rand := rfl
@[simp] theorem State.setDt_inputs (b : Byte) : (s.setDt b).inputs = s.inputs := rfl
@[simp] theorem State.setDt_draws (b : Byte) : (s.setDt b).draws = s.draws := rfl
@[simp] theorem State.setDt_getV (b : Byte) (k : Reg) : (s.setDt b).getV k = s.getV k := rfl
@[simp] theorem State.setDt_readByte (b : Byte) (m : Nat) : (s.setDt b).readByte m = s.readByte m := rfl
@[simp] theorem State.setDt_fetchWord (b : Byte) : (s.setDt b).fetchWord = s.fetchWord := rfl

/-! ### `State.setSt` -/

@[simp] theorem State.setSt_v (b : Byte) : (s.setSt b).v = s.v := rfl
@[simp] theorem State.setSt_index (b : Byte) : (s.setSt b).index = s.index := rfl
@[simp] theorem State.setSt_pc (b : Byte) : (s.setSt b).pc = s.pc := rfl
@[simp] theorem State.setSt_stack (b : Byte) : (s.setSt b).stack = s.stack := rfl
@[simp] theorem State.setSt_sp (b : Byte) : (s.setSt b).sp = s.sp := rfl
@[simp] theorem State.setSt_dt (b : Byte) : (s.setSt b).dt = s.dt := rfl
@[simp] theorem State.setSt_st (b : Byte) : (s.setSt b).st = b := rfl
@[simp] theorem State.setSt_key (b : Byte) : (s.setSt b).key = s.key := rfl
@[simp] theorem State.setSt_mem (b : Byte) : (s.setSt b).mem = s.mem := rfl
@[simp] theorem State.setSt_disp (b : Byte) : (s.setSt b).disp = s.disp := rfl
@[simp] theorem State.setSt_mode (b : Byte) : (s.setSt b).mode = s.mode := rfl
@[simp] theorem State.setSt_waitReg (b : Byte) : (s.setSt b).waitReg = s.waitReg := rfl
@[simp] theorem State.setSt_faultCause (b : Byte) : (s.setSt b).faultCause = s.faultCause := rfl
@[simp] theorem State.setSt_config (b : Byte) : (s.setSt b).config = s.config := rfl
@[simp] theorem State.setSt_rand (b : Byte) : (s.setSt b).rand = s.rand := rfl
@[simp] theorem State.setSt_inputs (b : Byte) : (s.setSt b).inputs = s.inputs := rfl
@[simp] theorem State.setSt_draws (b : Byte) : (s.setSt b).draws = s.draws := rfl
@[simp] theorem State.setSt_getV (b : Byte) (k : Reg) : (s.setSt b).getV k = s.getV k := rfl
@[simp] theorem State.setSt_readByte (b : Byte) (m : Nat) : (s.setSt b).readByte m = s.readByte m := rfl
@[simp] theorem State.setSt_fetchWord (b : Byte) : (s.setSt b).fetchWord = s.fetchWord := rfl

/-! ### `State.setDisp` -/

@[simp] theorem State.setDisp_v (d : Display) : (s.setDisp d).v = s.v := rfl
@[simp] theorem State.setDisp_index (d : Display) : (s.setDisp d).index = s.index := rfl
@[simp] theorem State.setDisp_pc (d : Display) : (s.setDisp d).pc = s.pc := rfl
@[simp] theorem State.setDisp_stack (d : Display) : (s.setDisp d).stack = s.stack := rfl
@[simp] theorem State.setDisp_sp (d : Display) : (s.setDisp d).sp = s.sp := rfl
@[simp] theorem State.setDisp_dt (d : Display) : (s.setDisp d).dt = s.dt := rfl
@[simp] theorem State.setDisp_st (d : Display) : (s.setDisp d).st = s.st := rfl
@[simp] theorem State.setDisp_key (d : Display) : (s.setDisp d).key = s.key := rfl
@[simp] theorem State.setDisp_mem (d : Display) : (s.setDisp d).mem = s.mem := rfl
@[simp] theorem State.setDisp_disp (d : Display) : (s.setDisp d).disp = d := rfl
@[simp] theorem State.setDisp_mode (d : Display) : (s.setDisp d).mode = s.mode := rfl
@[simp] theorem State.setDisp_waitReg (d : Display) : (s.setDisp d).waitReg = s.waitReg := rfl
@[simp] theorem State.setDisp_faultCause (d : Display) : (s.setDisp d).faultCause = s.faultCause := rfl
@[simp] theorem State.setDisp_config (d : Display) : (s.setDisp d).config = s.config := rfl
@[simp] theorem State.setDisp_rand (d : Display) : (s.setDisp d).rand = s.rand := rfl
@[simp] theorem State.setDisp_inputs (d : Display) : (s.setDisp d).inputs = s.inputs := rfl
@[simp] theorem State.setDisp_draws (d : Display) : (s.setDisp d).draws = s.draws := rfl
@[simp] theorem State.setDisp_getV (d : Display) (k : Reg) : (s.setDisp d).getV k = s.getV k := rfl
@[simp] theorem State.setDisp_readByte (d : Display) (m : Nat) : (s.setDisp d).readByte m = s.readByte m := rfl
@[simp] theorem State.setDisp_fetchWord (d : Display) : (s.setDisp d).fetchWord = s.fetchWord := rfl

/-! ### `State.skipIf` -/

@[simp] theorem State.skipIf_v (c : Bool) : (s.skipIf c).v = s.v := rfl
@[simp] theorem State.skipIf_index (c : Bool) : (s.skipIf c).index = s.index := rfl
@[simp] theorem State.skipIf_pc (c : Bool) : (s.skipIf c).pc = (if c then s.pc + 2 else s.pc) := rfl
@[simp] theorem State.skipIf_stack (c : Bool) : (s.skipIf c).stack = s.stack := rfl
@[simp] theorem State.skipIf_sp (c : Bool) : (s.skipIf c).sp = s.sp := rfl
@[simp] theorem State.skipIf_dt (c : Bool) : (s.skipIf c).dt = s.dt := rfl
@[simp] theorem State.skipIf_st (c : Bool) : (s.skipIf c).st = s.st := rfl
@[simp] theorem State.skipIf_key (c : Bool) : (s.skipIf c).key = s.key := rfl
@[simp] theorem State.skipIf_mem (c : Bool) : (s.skipIf c).mem = s.mem := rfl
@[simp] theorem State.skipIf_disp (c : Bool) : (s.skipIf c).disp = s.disp := rfl
@[simp] theorem State.skipIf_mode (c : Bool) : (s.skipIf c).mode = s.mode := rfl
@[simp] theorem State.skipIf_waitReg (c : Bool) : (s.skipIf c).waitReg = s.waitReg := rfl
@[simp] theorem State.skipIf_faultCause (c : Bool) : (s.skipIf c).faultCause = s.faultCause := rfl
@[simp] theorem State.skipIf_config (c : Bool) : (s.skipIf c).config = s.config := rfl
@[simp] theorem State.skipIf_rand (c : Bool) : (s.skipIf c).rand = s.rand := rfl
@[simp] theorem State.skipIf_inputs (c : Bool) : (s.skipIf c).inputs = s.inputs := rfl
@[simp] theorem State.skipIf_draws (c : Bool) : (s.skipIf c).draws = s.draws := rfl
@[simp] theorem State.skipIf_getV (c : Bool) (k : Reg) : (s.skipIf c).getV k = s.getV k := rfl
@[simp] theorem State.skipIf_readByte (c : Bool) (m : Nat) : (s.skipIf c).readByte m = s.readByte m := rfl

/-! ### `State.raise` -/

@[simp] theorem State.raise_v (f : Fault) : (s.raise f).v = s.v := rfl
@[simp] theorem State.raise_index (f : Fault) : (s.raise f).index = s.index := rfl
@[simp] theorem State.raise_pc (f : Fault) : (s.raise f).pc = s.pc := rfl
@[simp] theorem State.raise_stack (f : Fault) : (s.raise f).stack = s.stack := rfl
@[simp] theorem State.raise_sp (f : Fault) : (s.raise f).sp = s.sp := rfl
@[simp] theorem State.raise_dt (f : Fault) : (s.raise f).dt = s.dt := rfl
@[simp] theorem State.raise_st (f : Fault) : (s.raise f).st = s.st := rfl
@[simp] theorem State.raise_key (f : Fault) : (s.raise f).key = s.key := rfl
@[simp] theorem State.raise_mem (f : Fault) : (s.raise f).mem = s.mem := rfl
@[simp] theorem State.raise_disp (f : Fault) : (s.raise f).disp = s.disp := rfl
@[simp] theorem State.raise_mode (f : Fault) : (s.raise f).mode = .faulted := rfl
@[simp] theorem State.raise_waitReg (f : Fault) : (s.raise f).waitReg = s.waitReg := rfl
@[simp] theorem State.raise_faultCause (f : Fault) : (s.raise f).faultCause = (some f) := rfl
@[simp] theorem State.raise_config (f : Fault) : (s.raise f).config = s.config := rfl
@[simp] theorem State.raise_rand (f : Fault) : (s.raise f).rand = s.rand := rfl
@[simp] theorem State.raise_inputs (f : Fault) : (s.raise f).inputs = s.inputs := rfl
@[simp] theorem State.raise_draws (f : Fault) : (s.raise f).draws = s.draws := rfl
@[simp] theorem State.raise_getV (f : Fault) (k : Reg) : (s.raise f).getV k = s.getV k := rfl
@[simp] theorem State.raise_readByte (f : Fault) (m : Nat) : (s.raise f).readByte m = s.readByte m := rfl
@[simp] theorem State.raise_fetchWord (f : Fault) : (s.raise f).fetchWord = s.fetchWord := rfl

/-! ### `State.park` -/

@[simp] theorem State.park_v (x : Reg) : (s.park x).v = s.v := rfl
@[simp] theorem State.park_index (x : Reg) : (s.park x).index = s.index := rfl
@[simp] theorem State.park_pc (x : Reg) : (s.park x).pc = s.pc := rfl
@[simp] theorem State.park_stack (x : Reg) : (s.park x).stack = s.stack := rfl
@[simp] theorem State.park_sp (x : Reg) : (s.park x).sp = s.sp := rfl
@[simp] theorem State.park_dt (x : Reg) : (s.park x).dt = s.dt := rfl
@[simp] theorem State.park_st (x : Reg) : (s.park x).st = s.st := rfl
@[simp] theorem State.park_key (x : Reg) : (s.park x).key = s.key := rfl
@[simp] theorem State.park_mem (x : Reg) : (s.park x).mem = s.mem := rfl
@[simp] theorem State.park_disp (x : Reg) : (s.park x).disp = s.disp := rfl
@[simp] theorem State.park_mode (x : Reg) : (s.park x).mode = .awaitingKey := rfl
@[simp] theorem State.park_waitReg (x : Reg) : (s.park x).waitReg = x := rfl
@[simp] theorem State.park_faultCause (x : Reg) : (s.park x).faultCause = s.faultCause := rfl
@[simp] theorem State.park_config (x : Reg) : (s.park x).config = s.config := rfl
@[simp] theorem State.park_rand (x : Reg) : (s.park x).rand = s.rand := rfl
@[simp] theorem State.park_inputs (x : Reg) : (s.park x).inputs = s.inputs := rfl
@[simp] theorem State.park_draws (x : Reg) : (s.park x).draws = s.draws := rfl
@[simp] theorem State.park_getV (x : Reg) (k : Reg) : (s.park x).getV k = s.getV k := rfl
@[simp] theorem State.park_readByte (x : Reg) (m : Nat) : (s.park x).readByte m = s.readByte m := rfl
@[simp] theorem State.park_fetchWord (x : Reg) : (s.park x).fetchWord = s.fetchWord := rfl

/-! ### `State.advance` -/

@[simp] theorem State.advance_v : (s.advance).v = s.v := rfl
@[simp] theorem State.advance_index : (s.advance).index = s.index := rfl
@[simp] theorem State.advance_pc : (s.advance).pc = (s.pc + 2) := rfl
@[simp] theorem State.advance_stack : (s.advance).stack = s.stack := rfl
@[simp] theorem State.advance_sp : (s.advance).sp = s.sp := rfl
@[simp] theorem State.advance_dt : (s.advance).dt = s.dt := rfl
@[simp] theorem State.advance_st : (s.advance).st = s.st := rfl
@[simp] theorem State.advance_key : (s.advance).key = s.key := rfl
@[simp] theorem State.advance_mem : (s.advance).mem = s.mem := rfl
@[simp] theorem State.advance_disp : (s.advance).disp = s.disp := rfl
@[simp] theorem State.advance_mode : (s.advance).mode = s.mode := rfl
@[simp] theorem State.advance_waitReg : (s.advance).waitReg = s.waitReg := rfl
@[simp] theorem State.advance_faultCause : (s.advance).faultCause = s.faultCause := rfl
@[simp] theorem State.advance_config : (s.advance).config = s.config := rfl
@[simp] theorem State.advance_rand : (s.advance).rand = s.rand := rfl
@[simp] theorem State.advance_inputs : (s.advance).inputs = s.inputs := rfl
@[simp] theorem State.advance_draws : (s.advance).draws = s.draws := rfl
@[simp] theorem State.advance_getV (k : Reg) : (s.advance).getV k = s.getV k := rfl
@[simp] theorem State.advance_readByte (m : Nat) : (s.advance).readByte m = s.readByte m := rfl

/-! ### `State.tick` -/

@[simp] theorem State.tick_v : (s.tick).v = s.v := rfl
@[simp] theorem State.tick_index : (s.tick).index = s.index := rfl
@[simp] theorem State.tick_pc : (s.tick).pc = s.pc := rfl
@[simp] theorem State.tick_stack : (s.tick).stack = s.stack := rfl
@[simp] theorem State.tick_sp : (s.tick).sp = s.sp := rfl
@[simp] theorem State.tick_dt : (s.tick).dt = (tickByte s.dt) := rfl
@[simp] theorem State.tick_st : (s.tick).st = (tickByte s.st) := rfl
@[simp] theorem State.tick_key : (s.tick).key = s.key := rfl
@[simp] theorem State.tick_mem : (s.tick).mem = s.mem := rfl
@[simp] theorem State.tick_disp : (s.tick).disp = s.disp := rfl
@[simp] theorem State.tick_mode : (s.tick).mode = s.mode := rfl
@[simp] theorem State.tick_waitReg : (s.tick).waitReg = s.waitReg := rfl
@[simp] theorem State.tick_faultCause : (s.tick).faultCause = s.faultCause := rfl
@[simp] theorem State.tick_config : (s.tick).config = s.config := rfl
@[simp] theorem State.tick_rand : (s.tick).rand = s.rand := rfl
@[simp] theorem State.tick_inputs : (s.tick).inputs = s.inputs := rfl
@[simp] theorem State.tick_draws : (s.tick).draws = s.draws := rfl
@[simp] theorem State.tick_getV (k : Reg) : (s.tick).getV k = s.getV k := rfl
@[simp] theorem State.tick_readByte (m : Nat) : (s.tick).readByte m = s.readByte m := rfl
@[simp] theorem State.tick_fetchWord : (s.tick).fetchWord = s.fetchWord := rfl

/-! ### `State.sampleInputs` -/

@[simp] theorem State.sampleInputs_v : (s.sampleInputs).v = s.v := rfl
@[simp] theorem State.sampleInputs_index : (s.sampleInputs).index = s.index := rfl
@[simp] theorem State.sampleInputs_pc : (s.sampleInputs).pc = s.pc := rfl
@[simp] theorem State.sampleInputs_stack : (s.sampleInputs).stack = s.stack := rfl
@[simp] theorem State.sampleInputs_sp : (s.sampleInputs).sp = s.sp := rfl
@[simp] theorem State.sampleInputs_dt : (s.sampleInputs).dt = s.dt := rfl
@[simp] theorem State.sampleInputs_st : (s.sampleInputs).st = s.st := rfl
@[simp] theorem State.sampleInputs_key : (s.sampleInputs).key = s.cycleInput.keypad := rfl
@[simp] theorem State.sampleInputs_mem : (s.sampleInputs).mem = s.mem := rfl
@[simp] theorem State.sampleInputs_disp : (s.sampleInputs).disp = s.disp := rfl
@[simp] theorem State.sampleInputs_mode : (s.sampleInputs).mode = s.mode := rfl
@[simp] theorem State.sampleInputs_waitReg : (s.sampleInputs).waitReg = s.waitReg := rfl
@[simp] theorem State.sampleInputs_faultCause : (s.sampleInputs).faultCause = s.faultCause := rfl
@[simp] theorem State.sampleInputs_config : (s.sampleInputs).config = s.config := rfl
@[simp] theorem State.sampleInputs_rand : (s.sampleInputs).rand = s.cycleInput.rand := rfl
@[simp] theorem State.sampleInputs_inputs : (s.sampleInputs).inputs = s.inputs.tail := rfl
@[simp] theorem State.sampleInputs_draws : (s.sampleInputs).draws = (if s.inputs.isEmpty then s.draws + 1 else s.draws) := rfl
@[simp] theorem State.sampleInputs_getV (k : Reg) : (s.sampleInputs).getV k = s.getV k := rfl
@[simp] theorem State.sampleInputs_readByte (m : Nat) : (s.sampleInputs).readByte m = s.readByte m := rfl
@[simp] theorem State.sampleInputs_fetchWord : (s.sampleInputs).fetchWord = s.fetchWord := rfl

/-! ### `State.writeByte` -/

@[simp] theorem State.writeByte_v (a : Nat) (b : Byte) : (s.writeByte a b).v = s.v := rfl
@[simp] theorem State.writeByte_index (a : Nat) (b : Byte) : (s.writeByte a b).index = s.index := rfl
@[simp] theorem State.writeByte_pc (a : Nat) (b : Byte) : (s.writeByte a b).pc = s.pc := rfl
@[simp] theorem State.writeByte_stack (a : Nat) (b : Byte) : (s.writeByte a b).stack = s.stack := rfl
@[simp] theorem State.writeByte_sp (a : Nat) (b : Byte) : (s.writeByte a b).sp = s.sp := rfl
@[simp] theorem State.writeByte_dt (a : Nat) (b : Byte) : (s.writeByte a b).dt = s.dt := rfl
@[simp] theorem State.writeByte_st (a : Nat) (b : Byte) : (s.writeByte a b).st = s.st := rfl
@[simp] theorem State.writeByte_key (a : Nat) (b : Byte) : (s.writeByte a b).key = s.key := rfl
@[simp] theorem State.writeByte_mem (a : Nat) (b : Byte) : (s.writeByte a b).mem = (Memory.write s.config s.mem a b) := rfl
@[simp] theorem State.writeByte_disp (a : Nat) (b : Byte) : (s.writeByte a b).disp = s.disp := rfl
@[simp] theorem State.writeByte_mode (a : Nat) (b : Byte) : (s.writeByte a b).mode = s.mode := rfl
@[simp] theorem State.writeByte_waitReg (a : Nat) (b : Byte) : (s.writeByte a b).waitReg = s.waitReg := rfl
@[simp] theorem State.writeByte_faultCause (a : Nat) (b : Byte) : (s.writeByte a b).faultCause = s.faultCause := rfl
@[simp] theorem State.writeByte_config (a : Nat) (b : Byte) : (s.writeByte a b).config = s.config := rfl
@[simp] theorem State.writeByte_rand (a : Nat) (b : Byte) : (s.writeByte a b).rand = s.rand := rfl
@[simp] theorem State.writeByte_inputs (a : Nat) (b : Byte) : (s.writeByte a b).inputs = s.inputs := rfl
@[simp] theorem State.writeByte_draws (a : Nat) (b : Byte) : (s.writeByte a b).draws = s.draws := rfl
@[simp] theorem State.writeByte_getV (a : Nat) (b : Byte) (k : Reg) : (s.writeByte a b).getV k = s.getV k := rfl

/-! ### `State.supply` -/

@[simp] theorem State.supply_v (i : HostInput) : (s.supply i).v = s.v := rfl
@[simp] theorem State.supply_index (i : HostInput) : (s.supply i).index = s.index := rfl
@[simp] theorem State.supply_pc (i : HostInput) : (s.supply i).pc = s.pc := rfl
@[simp] theorem State.supply_stack (i : HostInput) : (s.supply i).stack = s.stack := rfl
@[simp] theorem State.supply_sp (i : HostInput) : (s.supply i).sp = s.sp := rfl
@[simp] theorem State.supply_dt (i : HostInput) : (s.supply i).dt = s.dt := rfl
@[simp] theorem State.supply_st (i : HostInput) : (s.supply i).st = s.st := rfl
@[simp] theorem State.supply_key (i : HostInput) : (s.supply i).key = s.key := rfl
@[simp] theorem State.supply_mem (i : HostInput) : (s.supply i).mem = s.mem := rfl
@[simp] theorem State.supply_disp (i : HostInput) : (s.supply i).disp = s.disp := rfl
@[simp] theorem State.supply_mode (i : HostInput) : (s.supply i).mode = s.mode := rfl
@[simp] theorem State.supply_waitReg (i : HostInput) : (s.supply i).waitReg = s.waitReg := rfl
@[simp] theorem State.supply_faultCause (i : HostInput) : (s.supply i).faultCause = s.faultCause := rfl
@[simp] theorem State.supply_config (i : HostInput) : (s.supply i).config = s.config := rfl
@[simp] theorem State.supply_rand (i : HostInput) : (s.supply i).rand = s.rand := rfl
@[simp] theorem State.supply_inputs (i : HostInput) : (s.supply i).inputs = (s.inputs ++ [i]) := rfl
@[simp] theorem State.supply_draws (i : HostInput) : (s.supply i).draws = s.draws := rfl
@[simp] theorem State.supply_getV (i : HostInput) (k : Reg) : (s.supply i).getV k = s.getV k := rfl
@[simp] theorem State.supply_readByte (i : HostInput) (m : Nat) : (s.supply i).readByte m = s.readByte m := rfl
@[simp] theorem State.supply_fetchWord (i : HostInput) : (s.supply i).fetchWord = s.fetchWord := rfl

/-! ### The register file -/

/-- A register write seen through a register read. -/
theorem State.getV_setV (x k : Reg) (b : Byte) : (s.setV x b).getV k = if k = x then b else s.getV k := by
  have : x.val = k.val ↔ k = x := ⟨fun h => (Fin.ext h).symm, fun h => by rw [h]⟩
  simp [State.getV, Vector.getElem_set, this]

@[simp] theorem State.getV_setV_self (x : Reg) (b : Byte) : (s.setV x b).getV x = b := by
  simp [State.getV_setV]

@[simp] theorem State.getV_setV_ne {x k : Reg} (h : k ≠ x) (b : Byte) : (s.setV x b).getV k = s.getV k := by
  simp [State.getV_setV, h]

end Sys2Proof.Machine
end

