-- ==== Sys2Proof/Laws/Memory.lean ====
section
/-! SUPPORT. Memory: what a store leaves to be read (spec/20_memory.md R67, R69), and that every memory operation keeps the canonical
form. -/

namespace Sys2Proof.Machine

/-! ### One cell -/

theorem Memory.lookup_erase (m : Memory) (a a' : Nat) :
    Memory.lookup (Memory.erase m a) a' = if a' = a then none else Memory.lookup m a' := by
  induction m with
  | nil => simp [Memory.erase, Memory.lookup]
  | cons e m ih =>
    obtain ⟨k, b⟩ := e
    simp only [Memory.erase, List.filter_cons, bne_iff_ne, ne_eq] at ih ⊢
    by_cases hk : k = a
    · subst hk
      by_cases h : a' = k
      · simpa [h] using ih
      · simp [ih, h, Memory.lookup, Ne.symm h]
    · by_cases h : a' = a
      · subst h; simp [hk, Memory.lookup, ih]
      · simp [hk, Memory.lookup, ih, h]

theorem Memory.lookup_insert (m : Memory) (a a' : Nat) (b : Byte) :
    Memory.lookup (Memory.insert m a b) a' = if a' = a then some b else Memory.lookup m a' := by
  induction m with
  | nil => simp [Memory.insert, Memory.lookup, eq_comm]
  | cons e m ih =>
    obtain ⟨k, c⟩ := e
    simp only [Memory.insert]
    split
    · simp [Memory.lookup, eq_comm]
    · split
      · subst_vars
        by_cases h : a' = k <;> simp [Memory.lookup, h, eq_comm]
      · rename_i h1 h2
        by_cases h : a' = a
        · subst h; simp [Memory.lookup, ih, Ne.symm h2]
        · simp [Memory.lookup, ih, h]

/-- A store seen through a read, at every address. -/
theorem Memory.read_write (c : Config) (m : Memory) (a a' : Nat) (b : Byte) (ha : a < 4096) :
    Memory.read c (Memory.write c m a b) a' = if a' = a then b else Memory.read c m a' := by
  simp only [Memory.read, Memory.write, ha, if_true]
  split
  · rename_i hb
    rw [Memory.lookup_erase]
    by_cases h : a' = a <;> simp [h, hb]
  · rw [Memory.lookup_insert]
    by_cases h : a' = a <;> simp [h]

/-! ### The canonical form -/

theorem Memory.wf_nil (c : Config) : Memory.wf c [] := by simp [Memory.wf]

theorem Memory.wf_erase {c : Config} {m : Memory} (a : Nat) (h : Memory.wf c m) :
    Memory.wf c (Memory.erase m a) :=
  ⟨h.1.filter _, fun e he => h.2 e (List.mem_of_mem_filter he)⟩

theorem Memory.mem_insert {m : Memory} {a : Nat} {b : Byte} {e : Host.Cell} (h : e ∈ Memory.insert m a b) :
    e = (a, b) ∨ e ∈ m := by
  induction m with
  | nil => simpa [Memory.insert] using h
  | cons f m ih =>
    obtain ⟨k, c⟩ := f
    simp only [Memory.insert] at h
    split at h
    · simpa using h
    · split at h
      · rcases List.mem_cons.mp h with h | h <;> simp [h]
      · rcases List.mem_cons.mp h with h | h
        · simp [h]
        · rcases ih h with h | h <;> simp [h]

theorem Memory.wf_insert {c : Config} {m : Memory} {a : Nat} {b : Byte} (ha : a < 4096)
    (hb : b ≠ initialByte c a) (h : Memory.wf c m) : Memory.wf c (Memory.insert m a b) := by
  refine ⟨?_, fun e he => ?_⟩
  · have hp := h.1
    clear h
    induction m with
    | nil => simp [Memory.insert]
    | cons f m ih =>
      obtain ⟨k, d⟩ := f
      obtain ⟨hk, hp⟩ := List.pairwise_cons.mp hp
      simp only [Memory.insert]
      split
      · rename_i hlt
        refine List.pairwise_cons.mpr ⟨fun e he => ?_, List.pairwise_cons.mpr ⟨hk, hp⟩⟩
        rcases List.mem_cons.mp he with rfl | he
        · exact hlt
        · exact lt_trans hlt (hk e he)
      · split
        · subst_vars
          exact List.pairwise_cons.mpr ⟨hk, hp⟩
        · refine List.pairwise_cons.mpr ⟨fun e he => ?_, ih hp⟩
          rcases Memory.mem_insert he with rfl | he
          · simp only; omega
          · exact hk e he
  · rcases Memory.mem_insert he with rfl | he
    · exact ⟨ha, hb⟩
    · exact h.2 e he

/-- A store keeps the canonical form. -/
theorem Memory.wf_write {c : Config} {m : Memory} (a : Nat) (b : Byte) (h : Memory.wf c m) :
    Memory.wf c (Memory.write c m a b) := by
  unfold Memory.write
  split
  · split
    · exact Memory.wf_erase a h
    · exact Memory.wf_insert ‹_› ‹_› h
  · exact h

/-- Memory after reset lists nothing, in canonical form. -/
theorem Memory.wf_reset (c : Config) : Memory.wf c (State.resetWith c).mem := Memory.wf_nil c

/-! ### A run of bytes -/

/-- A store seen through a read of the state. -/
theorem State.readByte_writeByte (s : State) (a a' : Nat) (b : Byte) (ha : a < 4096) :
    (s.writeByte a b).readByte a' = if a' = a then b else s.readByte a' :=
  Memory.read_write s.config s.mem a a' b ha

/-- All that storing bytes can do: it changes memory only. -/
theorem State.writeBytes_eq (s : State) (a : Nat) (bs : List Byte) :
    s.writeBytes a bs = { s with mem := (s.writeBytes a bs).mem } := by
  induction bs generalizing s a with
  | nil => rfl
  | cons b bs ih => rw [State.writeBytes, ih]; rfl

/-- Storing bytes seen through a read, at every address. -/
theorem State.readByte_writeBytes (s : State) (a a' : Nat) (bs : List Byte) (h : a + bs.length ≤ 4096) :
    (s.writeBytes a bs).readByte a' =
      if a ≤ a' ∧ a' < a + bs.length then bs.getD (a' - a) 0 else s.readByte a' := by
  induction bs generalizing s a with
  | nil => simp only [State.writeBytes, List.length_nil]; rw [if_neg (by omega)]
  | cons b bs ih =>
    simp only [List.length_cons] at h
    rw [State.writeBytes, ih _ _ (by omega), State.readByte_writeByte _ _ _ _ (by omega)]
    simp only [List.length_cons]
    by_cases h1 : a' = a
    · subst h1
      rw [if_neg (by omega), if_pos rfl, if_pos (by omega)]; simp
    · rw [if_neg h1]
      by_cases h2 : a + 1 ≤ a' ∧ a' < a + 1 + bs.length
      · rw [if_pos h2, if_pos (by omega), show a' - a = (a' - (a + 1)) + 1 by omega, List.getD_cons_succ]
      · rw [if_neg h2, if_neg (by omega)]

/-- Storing bytes keeps the canonical form. -/
theorem State.wf_writeBytes (s : State) (a : Nat) (bs : List Byte) (h : Memory.wf s.config s.mem) :
    Memory.wf s.config (s.writeBytes a bs).mem := by
  induction bs generalizing s a with
  | nil => exact h
  | cons b bs ih => exact ih (s.writeByte a b) (a + 1) (Memory.wf_write a b h)

variable (s : State) (a : Nat) (bs : List Byte)

@[simp] theorem State.writeBytes_v : (s.writeBytes a bs).v = s.v := by
  rw [State.writeBytes_eq]

@[simp] theorem State.writeBytes_index : (s.writeBytes a bs).index = s.index := by
  rw [State.writeBytes_eq]

@[simp] theorem State.writeBytes_pc : (s.writeBytes a bs).pc = s.pc := by
  rw [State.writeBytes_eq]

@[simp] theorem State.writeBytes_stack : (s.writeBytes a bs).stack = s.stack := by
  rw [State.writeBytes_eq]

@[simp] theorem State.writeBytes_sp : (s.writeBytes a bs).sp = s.sp := by
  rw [State.writeBytes_eq]

@[simp] theorem State.writeBytes_dt : (s.writeBytes a bs).dt = s.dt := by
  rw [State.writeBytes_eq]

@[simp] theorem State.writeBytes_st : (s.writeBytes a bs).st = s.st := by
  rw [State.writeBytes_eq]

@[simp] theorem State.writeBytes_key : (s.writeBytes a bs).key = s.key := by
  rw [State.writeBytes_eq]

@[simp] theorem State.writeBytes_disp : (s.writeBytes a bs).disp = s.disp := by
  rw [State.writeBytes_eq]

@[simp] theorem State.writeBytes_mode : (s.writeBytes a bs).mode = s.mode := by
  rw [State.writeBytes_eq]

@[simp] theorem State.writeBytes_waitReg : (s.writeBytes a bs).waitReg = s.waitReg := by
  rw [State.writeBytes_eq]

@[simp] theorem State.writeBytes_faultCause : (s.writeBytes a bs).faultCause = s.faultCause := by
  rw [State.writeBytes_eq]

@[simp] theorem State.writeBytes_config : (s.writeBytes a bs).config = s.config := by
  rw [State.writeBytes_eq]

@[simp] theorem State.writeBytes_rand : (s.writeBytes a bs).rand = s.rand := by
  rw [State.writeBytes_eq]

@[simp] theorem State.writeBytes_inputs : (s.writeBytes a bs).inputs = s.inputs := by
  rw [State.writeBytes_eq]

@[simp] theorem State.writeBytes_draws : (s.writeBytes a bs).draws = s.draws := by
  rw [State.writeBytes_eq]

@[simp] theorem State.writeBytes_getV (k : Reg) : (s.writeBytes a bs).getV k = s.getV k := by
  rw [State.writeBytes_eq]; rfl

end Sys2Proof.Machine
end

