-- ==== Sys2Proof/Laws/Ops.lean ====
section
/-! SUPPORT. One lemma per shared operation of the machine: what it can do, to be cited instead of unfolded. -/

namespace Sys2Proof.Machine

/-! ### The call stack (spec/10_state.md R24) -/

/-- A push succeeds exactly below 16 slots, and writes the slot at `sp`. -/
theorem State.push_of_lt (s : State) (w : Word) (h : s.sp.val < 16) :
    s.push w = some { s with stack := s.stack.set s.sp.val w, sp := ⟨s.sp.val + 1, by omega⟩ } := by
  simp [State.push, h]

theorem State.push_of_full (s : State) (w : Word) (h : s.sp.val = 16) : s.push w = none := by
  simp [State.push, h]

/-- A pop succeeds exactly on a non-empty stack, and reads the slot below `sp`. -/
theorem State.pop_of_pos (s : State) (h : 0 < s.sp.val) :
    s.pop = some (s.stack[s.sp.val - 1], { s with sp := ⟨s.sp.val - 1, by omega⟩ }) := by
  simp [State.pop, h]

theorem State.pop_of_empty (s : State) (h : s.sp.val = 0) : s.pop = none := by
  simp [State.pop, h]

/-! ### Range checks (spec/20_memory.md R63, R66) -/

theorem inMemory_iff (i : Word) (n : Nat) : inMemory i n = true ↔ n = 0 ∨ i.toNat + n ≤ 4096 := by
  simp [inMemory]

theorem State.canFetch_iff (s : State) : s.canFetch = true ↔ s.pc.toNat ≤ 4094 := by
  simp [State.canFetch]

/-! ### Keys (spec/40_cycle.md R128) -/

theorem lowestKey_eq_none (kp : BitVec 16) : lowestKey kp = none ↔ kp = 0 := by
  simp only [lowestKey, List.find?_eq_none, List.mem_finRange, true_implies, Bool.not_eq_true]
  constructor
  · intro h
    apply BitVec.eq_of_getLsbD_eq
    intro i hi
    simpa using h ⟨i, hi⟩
  · rintro rfl k; simp

/-- The least key held is held, and no lower one is. -/
theorem lowestKey_eq_some (kp : BitVec 16) (k : Reg) :
    lowestKey kp = some k ↔ kp.getLsbD k.val = true ∧ ∀ j : Reg, j < k → kp.getLsbD j.val = false := by
  have key : ∀ k', lowestKey kp = some k' →
      kp.getLsbD k'.val = true ∧ ∀ j : Reg, j < k' → kp.getLsbD j.val = false := by
    intro k' h
    refine ⟨by simpa using List.find?_some h, fun j hj => ?_⟩
    obtain ⟨-, as, bs, hsplit, has⟩ := List.find?_eq_some_iff_append.mp h
    have hpw : (List.finRange 16).Pairwise (· < ·) := List.pairwise_lt_finRange 16
    rw [hsplit] at hpw
    have hmem : j ∈ as ++ k' :: bs := hsplit ▸ List.mem_finRange j
    rcases List.mem_append.mp hmem with hm | hm
    · simpa using has j hm
    · rcases List.mem_cons.mp hm with rfl | hm
      · exact absurd hj (lt_irrefl _)
      · have := (List.pairwise_cons.mp (List.pairwise_append.mp hpw).2.1).1 j hm
        exact absurd (lt_trans hj this) (lt_irrefl _)
  refine ⟨key k, fun ⟨h1, h2⟩ => ?_⟩
  cases h : lowestKey kp with
  | none => rw [lowestKey_eq_none] at h; subst h; simp at h1
  | some k' =>
    obtain ⟨h3, h4⟩ := key k' h
    rcases lt_trichotomy k k' with hlt | rfl | hlt
    · exact absurd (h4 k hlt) (by simp only [h1]; decide)
    · rfl
    · exact absurd (h2 k' hlt) (by simp only [h3]; decide)

/-- All that an AwaitingKey cycle does once its inputs are there. -/
theorem State.awaitKey_of_none (s : State) (h : s.key = 0) : s.awaitKey = s := by
  simp [State.awaitKey, (lowestKey_eq_none s.key).mpr h]

theorem State.awaitKey_of_some (s : State) (k : Reg) (h : lowestKey s.key = some k) :
    s.awaitKey = { s with v := s.v.set s.waitReg (BitVec.ofNat 8 k.val), mode := .running } := by
  simp [State.awaitKey, h]

/-! ### The tick (spec/40_cycle.md R127) -/

/-- A tick saturates at 0. -/
@[simp] theorem tickByte_toNat (b : Byte) : (tickByte b).toNat = b.toNat - 1 := by
  unfold tickByte
  split
  · subst_vars; rfl
  · rename_i h
    have hb : b.toNat ≠ 0 := fun h0 => h (BitVec.eq_of_toNat_eq h0)
    rw [BitVec.toNat_sub_of_le (by simp [BitVec.le_def]; omega)]; rfl

theorem State.endCycle_of_faulted (s : State) (h : s.mode = .faulted) : s.endCycle = s := by
  simp [State.endCycle, h]

theorem State.endCycle_of_not_faulted (s : State) (h : s.mode ≠ .faulted) : s.endCycle = s.tick := by
  simp [State.endCycle, h]

/-- The end of a cycle never changes the mode. -/
@[simp] theorem State.endCycle_mode (s : State) : s.endCycle.mode = s.mode := by
  unfold State.endCycle; split <;> simp

/-! ### Operands (spec/44_index_mem.md R182 to R185, spec/41_flow.md R143) -/

/-- The register of BNNN under `JUMP_REG = VX` is the `X` field of its word. -/
theorem jumpField_eq (nnn : Addr) : jumpField nnn = xField (encode (.jpV0 nnn)) := by
  apply Fin.ext
  simp [encode, jumpField, Nat.shiftRight_eq_div_pow]
  omega

theorem glyphAddress_toNat (d : Byte) : (glyphAddress d).toNat = 0x050 + 5 * d.toNat := by
  simp [glyphAddress]; omega

theorem decimalDigits_length (b : Byte) : (decimalDigits b).length = 3 := rfl

theorem State.registersTo_length (s : State) (x : Reg) : (s.registersTo x).length = x.val + 1 := by
  simp [State.registersTo]

theorem State.registersTo_getD (s : State) (x k : Reg) (h : k ≤ x) :
    (s.registersTo x).getD k.val 0 = s.getV k := by
  have hk : k.val < x.val + 1 := by have : k.val ≤ x.val := h; omega
  have hl : k.val < (s.registersTo x).length := by rw [State.registersTo_length]; exact hk
  rw [List.getD_eq_getElem _ _ hl]
  simp [State.registersTo, State.getV]

theorem State.registersLoaded_getElem (s : State) (x k : Reg) :
    (s.registersLoaded x)[k] = if k ≤ x then s.readByte (s.index.toNat + k.val) else s.getV k := by
  simp [State.registersLoaded]

theorem State.indexAfter_toNat (s : State) (x : Reg) (h : s.index.toNat + x.val ≤ 4095) :
    (s.indexAfter x).toNat = if s.config.loadStoreIncI then s.index.toNat + x.val + 1 else s.index.toNat := by
  unfold State.indexAfter
  split
  · simp; omega
  · rfl

end Sys2Proof.Machine
end

