-- ==== Sys2Proof/Laws/PerInstr.lean ====
section
/-! SUPPORT. Statements about every instruction as syntax, one lemma per constructor. -/

namespace Sys2Proof.Laws.FixedBits

/-- The word of an instruction has the fixed bits of its own row of the opcode map (spec/30_encoding.md R92, R95). -/
def Statement (i : Instr) : Prop :=
  i.WellFormed → ∀ r ∈ opcodeMap, r.number = i.rowNumber → encode i &&& r.mask = r.value

theorem row_unique : ∀ r ∈ opcodeMap, ∀ q ∈ opcodeMap, r.number = q.number → q = r := by decide

theorem row_below : ∀ r ∈ opcodeMap, r.number ≠ 35 := by decide

theorem cls : Statement .cls := by unfold Statement; decide

theorem ret : Statement .ret := by unfold Statement; decide

theorem jp (nnn : Addr) : Statement (.jp nnn) := by
  intro _ r hr hn
  obtain rfl := row_unique r hr ⟨3, 0xF000, 0x1000⟩ (by decide) hn
  exact (matches_F000 _ 0x1).2 (by simp [encode])

theorem call (nnn : Addr) : Statement (.call nnn) := by
  intro _ r hr hn
  obtain rfl := row_unique r hr ⟨4, 0xF000, 0x2000⟩ (by decide) hn
  exact (matches_F000 _ 0x2).2 (by simp [encode])

theorem seImm (x : Reg) (nn : Byte) : Statement (.seImm x nn) := by
  intro _ r hr hn
  obtain rfl := row_unique r hr ⟨5, 0xF000, 0x3000⟩ (by decide) hn
  exact (matches_F000 _ 0x3).2 (by simp [encode])

theorem sneImm (x : Reg) (nn : Byte) : Statement (.sneImm x nn) := by
  intro _ r hr hn
  obtain rfl := row_unique r hr ⟨6, 0xF000, 0x4000⟩ (by decide) hn
  exact (matches_F000 _ 0x4).2 (by simp [encode])

theorem seReg (x y : Reg) : Statement (.seReg x y) := by
  intro _ r hr hn
  obtain rfl := row_unique r hr ⟨7, 0xF00F, 0x5000⟩ (by decide) hn
  exact (matches_F00F _ 0x5 0x0).2 (by simp [encode])

theorem sneReg (x y : Reg) : Statement (.sneReg x y) := by
  intro _ r hr hn
  obtain rfl := row_unique r hr ⟨8, 0xF00F, 0x9000⟩ (by decide) hn
  exact (matches_F00F _ 0x9 0x0).2 (by simp [encode])

theorem ldImm (x : Reg) (nn : Byte) : Statement (.ldImm x nn) := by
  intro _ r hr hn
  obtain rfl := row_unique r hr ⟨9, 0xF000, 0x6000⟩ (by decide) hn
  exact (matches_F000 _ 0x6).2 (by simp [encode])

theorem addImm (x : Reg) (nn : Byte) : Statement (.addImm x nn) := by
  intro _ r hr hn
  obtain rfl := row_unique r hr ⟨10, 0xF000, 0x7000⟩ (by decide) hn
  exact (matches_F000 _ 0x7).2 (by simp [encode])

theorem ldReg (x y : Reg) : Statement (.ldReg x y) := by
  intro _ r hr hn
  obtain rfl := row_unique r hr ⟨11, 0xF00F, 0x8000⟩ (by decide) hn
  exact (matches_F00F _ 0x8 0x0).2 (by simp [encode])

theorem orReg (x y : Reg) : Statement (.orReg x y) := by
  intro _ r hr hn
  obtain rfl := row_unique r hr ⟨12, 0xF00F, 0x8001⟩ (by decide) hn
  exact (matches_F00F _ 0x8 0x1).2 (by simp [encode])

theorem andReg (x y : Reg) : Statement (.andReg x y) := by
  intro _ r hr hn
  obtain rfl := row_unique r hr ⟨13, 0xF00F, 0x8002⟩ (by decide) hn
  exact (matches_F00F _ 0x8 0x2).2 (by simp [encode])

theorem xorReg (x y : Reg) : Statement (.xorReg x y) := by
  intro _ r hr hn
  obtain rfl := row_unique r hr ⟨14, 0xF00F, 0x8003⟩ (by decide) hn
  exact (matches_F00F _ 0x8 0x3).2 (by simp [encode])

theorem addReg (x y : Reg) : Statement (.addReg x y) := by
  intro _ r hr hn
  obtain rfl := row_unique r hr ⟨15, 0xF00F, 0x8004⟩ (by decide) hn
  exact (matches_F00F _ 0x8 0x4).2 (by simp [encode])

theorem subReg (x y : Reg) : Statement (.subReg x y) := by
  intro _ r hr hn
  obtain rfl := row_unique r hr ⟨16, 0xF00F, 0x8005⟩ (by decide) hn
  exact (matches_F00F _ 0x8 0x5).2 (by simp [encode])

theorem subnReg (x y : Reg) : Statement (.subnReg x y) := by
  intro _ r hr hn
  obtain rfl := row_unique r hr ⟨17, 0xF00F, 0x8007⟩ (by decide) hn
  exact (matches_F00F _ 0x8 0x7).2 (by simp [encode])

theorem shr (x y : Reg) : Statement (.shr x y) := by
  intro _ r hr hn
  obtain rfl := row_unique r hr ⟨18, 0xF00F, 0x8006⟩ (by decide) hn
  exact (matches_F00F _ 0x8 0x6).2 (by simp [encode])

theorem shl (x y : Reg) : Statement (.shl x y) := by
  intro _ r hr hn
  obtain rfl := row_unique r hr ⟨19, 0xF00F, 0x800E⟩ (by decide) hn
  exact (matches_F00F _ 0x8 0xE).2 (by simp [encode])

theorem ldI (nnn : Addr) : Statement (.ldI nnn) := by
  intro _ r hr hn
  obtain rfl := row_unique r hr ⟨20, 0xF000, 0xA000⟩ (by decide) hn
  exact (matches_F000 _ 0xA).2 (by simp [encode])

theorem jpV0 (nnn : Addr) : Statement (.jpV0 nnn) := by
  intro _ r hr hn
  obtain rfl := row_unique r hr ⟨21, 0xF000, 0xB000⟩ (by decide) hn
  exact (matches_F000 _ 0xB).2 (by simp [encode])

theorem rnd (x : Reg) (nn : Byte) : Statement (.rnd x nn) := by
  intro _ r hr hn
  obtain rfl := row_unique r hr ⟨22, 0xF000, 0xC000⟩ (by decide) hn
  exact (matches_F000 _ 0xC).2 (by simp [encode])

theorem drw (x y : Reg) (n : Nibble) : Statement (.drw x y n) := by
  intro _ r hr hn
  obtain rfl := row_unique r hr ⟨23, 0xF000, 0xD000⟩ (by decide) hn
  exact (matches_F000 _ 0xD).2 (by simp [encode])

theorem skp (x : Reg) : Statement (.skp x) := by
  intro _ r hr hn
  obtain rfl := row_unique r hr ⟨24, 0xF0FF, 0xE09E⟩ (by decide) hn
  exact (matches_F0FF _ 0xE 0x9E).2 (by simp [encode])

theorem sknp (x : Reg) : Statement (.sknp x) := by
  intro _ r hr hn
  obtain rfl := row_unique r hr ⟨25, 0xF0FF, 0xE0A1⟩ (by decide) hn
  exact (matches_F0FF _ 0xE 0xA1).2 (by simp [encode])

theorem ldVDt (x : Reg) : Statement (.ldVDt x) := by
  intro _ r hr hn
  obtain rfl := row_unique r hr ⟨26, 0xF0FF, 0xF007⟩ (by decide) hn
  exact (matches_F0FF _ 0xF 0x07).2 (by simp [encode])

theorem ldDt (x : Reg) : Statement (.ldDt x) := by
  intro _ r hr hn
  obtain rfl := row_unique r hr ⟨27, 0xF0FF, 0xF015⟩ (by decide) hn
  exact (matches_F0FF _ 0xF 0x15).2 (by simp [encode])

theorem ldSt (x : Reg) : Statement (.ldSt x) := by
  intro _ r hr hn
  obtain rfl := row_unique r hr ⟨28, 0xF0FF, 0xF018⟩ (by decide) hn
  exact (matches_F0FF _ 0xF 0x18).2 (by simp [encode])

theorem addI (x : Reg) : Statement (.addI x) := by
  intro _ r hr hn
  obtain rfl := row_unique r hr ⟨29, 0xF0FF, 0xF01E⟩ (by decide) hn
  exact (matches_F0FF _ 0xF 0x1E).2 (by simp [encode])

theorem ldK (x : Reg) : Statement (.ldK x) := by
  intro _ r hr hn
  obtain rfl := row_unique r hr ⟨30, 0xF0FF, 0xF00A⟩ (by decide) hn
  exact (matches_F0FF _ 0xF 0x0A).2 (by simp [encode])

theorem ldF (x : Reg) : Statement (.ldF x) := by
  intro _ r hr hn
  obtain rfl := row_unique r hr ⟨31, 0xF0FF, 0xF029⟩ (by decide) hn
  exact (matches_F0FF _ 0xF 0x29).2 (by simp [encode])

theorem ldB (x : Reg) : Statement (.ldB x) := by
  intro _ r hr hn
  obtain rfl := row_unique r hr ⟨32, 0xF0FF, 0xF033⟩ (by decide) hn
  exact (matches_F0FF _ 0xF 0x33).2 (by simp [encode])

theorem storeRegs (x : Reg) : Statement (.storeRegs x) := by
  intro _ r hr hn
  obtain rfl := row_unique r hr ⟨33, 0xF0FF, 0xF055⟩ (by decide) hn
  exact (matches_F0FF _ 0xF 0x55).2 (by simp [encode])

theorem loadRegs (x : Reg) : Statement (.loadRegs x) := by
  intro _ r hr hn
  obtain rfl := row_unique r hr ⟨34, 0xF0FF, 0xF065⟩ (by decide) hn
  exact (matches_F0FF _ 0xF 0x65).2 (by simp [encode])

theorem unknown (w : Word) : Statement (.unknown w) := by
  intro _ r hr hn
  exact absurd hn (row_below r hr)

end Sys2Proof.Laws.FixedBits
end

