-- ==== Sys2Proof/Laws/Step.lean ====
section
/-! SUPPORT. What a cycle can do, said once, and the frames of the operations meanings are built from. -/

namespace Sys2Proof.Machine

variable (s t : State)

/-! ### A cycle -/

theorem step_of_running (h : s.mode = .running) : step s = runningCycle s.sampleInputs := by
  simp [step, cycle, h]

theorem step_of_awaitingKey (h : s.mode = .awaitingKey) : step s = .next s.sampleInputs.awaitKey := by
  simp [step, cycle, h]

theorem runningCycle_of_fetch (h : s.pc.toNat ≤ 4094) :
    runningCycle s = match exec (decodeWord s.fetchWord) s.advance with
      | .next t => .next t.endCycle
      | .fault r => .fault r
      | .refused r => .refused r :=
  if_pos (s.canFetch_iff.2 h)

theorem runningCycle_of_no_fetch (h : 4094 < s.pc.toNat) : runningCycle s = .next (s.raise .pcOutOfRange) := by
  rw [runningCycle, if_neg fun hc => by have := s.canFetch_iff.1 hc; omega]

/-- Everything a step can do. -/
theorem step_cases (h : step s = .next t) :
    (s.mode = .faulted ∧ t = s) ∨
    (s.mode = .awaitingKey ∧ t = s.sampleInputs.awaitKey) ∨
    (s.mode = .running ∧ 4094 < s.pc.toNat ∧ t = s.sampleInputs.raise .pcOutOfRange) ∨
    (s.mode = .running ∧ s.pc.toNat ≤ 4094 ∧
      ∃ u, exec (decodeWord s.fetchWord) s.sampleInputs.advance = .next u ∧ t = u.endCycle) := by
  cases hm : s.mode with
  | faulted => simpa [step, cycle, hm, eq_comm] using h
  | awaitingKey => simpa [step_of_awaitingKey s hm, eq_comm] using h
  | running =>
    rw [step_of_running s hm] at h
    by_cases hc : s.pc.toNat ≤ 4094
    · rw [runningCycle_of_fetch s.sampleInputs hc, State.sampleInputs_fetchWord] at h
      cases hx : exec (decodeWord s.fetchWord) s.sampleInputs.advance with
      | next u => rw [hx] at h; cases h; simp [hc]
      | fault r => rw [hx] at h; cases h
      | refused r => rw [hx] at h; cases h
    · rw [runningCycle_of_no_fetch s.sampleInputs (by simpa using Nat.lt_of_not_le hc)] at h
      cases h; simp; omega

/-! ### Frames -/

theorem ChangesOnly.refl (ps : List Part) : ChangesOnly s s ps := by
  intro p _; cases p <;> simp [Part.Kept]

theorem State.changesOnly_setV (x : Reg) (b : Byte) : ChangesOnly s (s.setV x b) [.v] := by
  intro p hp; cases p <;> simp_all [Part.Kept]

theorem State.changesOnly_setV_setV (x y : Reg) (b c : Byte) : ChangesOnly s ((s.setV x b).setV y c) [.v] := by
  intro p hp; cases p <;> simp_all [Part.Kept]

theorem State.changesOnly_setPc (w : Word) : ChangesOnly s (s.setPc w) [.pc] := by
  intro p hp; cases p <;> simp_all [Part.Kept]

theorem State.changesOnly_skipIf (c : Bool) : ChangesOnly s (s.skipIf c) [.pc] := by
  intro p hp; cases p <;> simp_all [Part.Kept]

theorem State.changesOnly_setIndex (w : Word) : ChangesOnly s (s.setIndex w) [.index] := by
  intro p hp; cases p <;> simp_all [Part.Kept]

theorem State.changesOnly_raise (c : Fault) : ChangesOnly s (s.raise c) [.mode, .faultCause] := by
  intro p hp; cases p <;> simp_all [Part.Kept]

theorem State.changesOnly_writeBytes (a : Nat) (bs : List Byte) : ChangesOnly s (s.writeBytes a bs) [.mem] := by
  intro p hp; cases p <;> simp_all [Part.Kept]

theorem State.changesOnly_tick : ChangesOnly s s.tick [.dt, .st] := by
  intro p hp; cases p <;> simp_all [Part.Kept]

theorem State.changesOnly_sampleInputs : ChangesOnly s s.sampleInputs hostParts := by
  intro p hp; cases p <;> simp_all [Part.Kept, hostParts]

theorem State.registersChangeOnly_setV (x : Reg) (b : Byte) : RegistersChangeOnly s (s.setV x b) [x] := by
  intro k hk; simp at hk; simp [hk]

theorem State.registersChangeOnly_setV_setV (x y : Reg) (b c : Byte) :
    RegistersChangeOnly s ((s.setV x b).setV y c) [x, y] := by
  intro k hk; simp at hk; simp [hk]

theorem State.setFlag_eq (f : Bool) : s.setFlag f = s.setV 15 (if f then 0x01 else 0x00) := rfl

end Sys2Proof.Machine
end

