-- ==== Sys2Proof/Laws/Run.lean ====
section
/-! SUPPORT. What a run and its end can be, said once. -/

namespace Sys2Proof.Machine

variable (s : State)

/-- A state is at a jump to itself exactly when the core fetches a `1NNN` whose `NNN` is `pc`. -/
theorem State.atSelfJump_iff :
    s.atSelfJump = true ↔ s.mode = .running ∧ s.pc.toNat ≤ 4094 ∧
      ∃ nnn, decodeWord s.fetchWord = .jp nnn ∧ nnn.setWidth 16 = s.pc := by
  simp only [State.atSelfJump, Bool.and_eq_true, beq_iff_eq, State.canFetch_iff, and_assoc]
  refine and_congr_right fun _ => and_congr_right fun _ => ?_
  cases decodeWord s.fetchWord <;> simp

theorem State.ending_eq_none_iff : s.ending = none ↔ s.mode ≠ .faulted ∧ s.atSelfJump = false := by
  unfold State.ending; split <;> simp_all

@[simp] theorem State.cycles_zero : s.cycles 0 = .next s := rfl

theorem State.cycles_succ_of_next {t : State} (n : Nat) (h : step s = .next t) : s.cycles (n + 1) = t.cycles n := by
  have h' : Sys2Proof.core.step s = .next t := h
  simp only [State.cycles, Host.Core.run, h']
  rfl

@[simp] theorem State.run_zero : s.run 0 = .next s := rfl

theorem State.run_of_ended {e : Ending} (n : Nat) (h : s.ending = some e) : s.run n = .next s := by
  cases n <;> simp [State.run, h]

theorem State.run_succ_of_next {t : State} (n : Nat) (h : s.ending = none) (hs : step s = .next t) :
    s.run (n + 1) = t.run n := by
  simp [State.run, h, hs]

end Sys2Proof.Machine
end

