-- ==== Sys2Proof/Laws/Screen.lean ====
section
/-! SUPPORT. Drawing, cell by cell: what one pixel, one sprite row and a whole sprite do to each cell and to the collision flag
(spec/46_display.md R201, R203, R206). -/

namespace Sys2Proof.Machine

/-- The collision flag after drawing the bits `bit` over `d`: set before, or some 1 bit on a cell that is on. -/
abbrev Drawing.Collides (d : Drawing) (bit : Fin 32 → Fin 64 → Bool) : Prop :=
  d.collision = true ∨ ∃ (row : Fin 32) (col : Fin 64), bit row col = true ∧ d.disp[row][col] = true

/-- `e` is `d` with the bits `bit` drawn over it. -/
structure Drawing.Drawn (d e : Drawing) (bit : Fin 32 → Fin 64 → Bool) : Prop where
  cell : ∀ (row : Fin 32) (col : Fin 64), e.disp[row][col] = (d.disp[row][col] ^^ bit row col)
  collision : e.collision = true ↔ d.Collides bit

/-- Drawing no bit changes nothing. -/
theorem Drawing.Drawn.refl (d : Drawing) {bit : Fin 32 → Fin 64 → Bool} (h : ∀ row col, bit row col = false) :
    d.Drawn d bit :=
  ⟨fun _ _ => by simp [h], by simp [Drawing.Collides, h]⟩

/-- Two drawings that touch different cells compose into one. -/
theorem Drawing.Drawn.trans {d e f : Drawing} {p q r : Fin 32 → Fin 64 → Bool} (h1 : d.Drawn e p) (h2 : e.Drawn f q)
    (hr : ∀ row col, r row col = (p row col || q row col))
    (hd : ∀ row col, ¬ (p row col = true ∧ q row col = true)) : d.Drawn f r := by
  constructor
  · intro row col
    rw [h2.cell, h1.cell, hr]
    have := hd row col
    cases hp : p row col <;> cases hq : q row col <;> simp_all
  · rw [h2.collision, Drawing.Collides, h1.collision, Drawing.Collides, or_assoc]
    refine or_congr Iff.rfl ⟨?_, ?_⟩
    · rintro (⟨row, col, hb, hc⟩ | ⟨row, col, hb, hc⟩)
      · exact ⟨row, col, by simp [hr, hb], hc⟩
      · refine ⟨row, col, by simp [hr, hb], ?_⟩
        have hp : p row col = false := by
          have := hd row col; cases h : p row col <;> simp_all
        rw [h1.cell, hp] at hc; simpa using hc
    · rintro ⟨row, col, hb, hc⟩
      rw [hr] at hb
      cases hp : p row col with
      | true => exact .inl ⟨row, col, hp, hc⟩
      | false =>
        refine .inr ⟨row, col, by simpa [hp] using hb, ?_⟩
        rw [h1.cell, hp]; simpa using hc

/-- One pixel toggles its own cell, if it is a 1 bit inside the grid. -/
theorem Drawing.drawn_plot (d : Drawing) (bit : Bool) (x y : Nat) :
    d.Drawn (d.plot bit x y) (fun row col => bit && decide (col.val = x ∧ row.val = y)) := by
  unfold Drawing.plot
  split
  · rename_i h
    cases bit with
    | false => exact ⟨fun _ _ => by simp, by simp [Drawing.Collides]⟩
    | true =>
      constructor
      · intro row col
        simp only [if_true, Fin.getElem_fin, Bool.true_and]
        by_cases hy : y = row.val
        · subst hy
          by_cases hx : x = col.val
          · subst hx; simp
          · simp [hx, Ne.symm hx]
        · simp [hy, Ne.symm hy]
      · simp only [if_true, Drawing.Collides, Bool.or_eq_true, Bool.true_and, decide_eq_true_eq]
        refine or_congr Iff.rfl ⟨fun hc => ?_, ?_⟩
        · exact ⟨⟨y, by omega⟩, ⟨x, by omega⟩, ⟨rfl, rfl⟩, hc⟩
        · rintro ⟨row, col, ⟨rfl, rfl⟩, hc⟩; exact hc
  · rename_i h
    have : ∀ (row : Fin 32) (col : Fin 64), ¬ (col.val = x ∧ row.val = y) := by
      intro row col hh; omega
    exact ⟨fun row col => by simp [this], by simp [Drawing.Collides, this]⟩

/-- One sprite row draws its eight bits from column `x0` on. -/
theorem Drawing.drawn_plotRow (d : Drawing) (b : Byte) (x0 y : Nat) :
    d.Drawn (d.plotRow b x0 y) (fun row col =>
      decide (row.val = y ∧ x0 ≤ col.val ∧ col.val < x0 + 8) && b.getLsbD (7 - (col.val - x0))) := by
  suffices ∀ n, d.Drawn ((List.range n).foldl (fun d c => d.plot (b.getLsbD (7 - c)) (x0 + c) y) d)
      (fun row col => decide (row.val = y ∧ x0 ≤ col.val ∧ col.val < x0 + n) && b.getLsbD (7 - (col.val - x0))) from
    this 8
  intro n
  induction n with
  | zero =>
    exact Drawing.Drawn.refl d fun row col => by
      rw [decide_eq_false (by omega), Bool.false_and]
  | succ n ih =>
    rw [List.range_succ, List.foldl_append]
    refine ih.trans (Drawing.drawn_plot _ _ _ _) (fun row col => ?_) (fun row col => ?_)
    · by_cases hc : col.val = x0 + n
      · by_cases hr : row.val = y <;> simp [hc, hr]
      · have : (col.val < x0 + (n + 1)) = (col.val < x0 + n) := by simp; omega
        simp [hc, this]
    · simp only [Bool.and_eq_true, decide_eq_true_eq]; omega

/-- A sprite draws its `n` rows of eight bits from column `x0`, row `y0` on, each cell at most once. -/
theorem Drawing.drawn_plotRows (d : Drawing) (rows : Nat → Byte) (x0 y0 n : Nat) :
    d.Drawn (d.plotRows rows x0 y0 n) (fun row col =>
      decide (y0 ≤ row.val ∧ row.val < y0 + n ∧ x0 ≤ col.val ∧ col.val < x0 + 8) &&
        (rows (row.val - y0)).getLsbD (7 - (col.val - x0))) := by
  unfold Drawing.plotRows
  induction n with
  | zero =>
    exact Drawing.Drawn.refl d fun row col => by
      rw [decide_eq_false (by omega), Bool.false_and]
  | succ n ih =>
    rw [List.range_succ, List.foldl_append]
    refine ih.trans (Drawing.drawn_plotRow _ _ _ _) (fun row col => ?_) (fun row col => ?_)
    · by_cases hr : row.val = y0 + n
      · simp [hr]
      · have : (row.val < y0 + (n + 1)) = (row.val < y0 + n) := by simp; omega
        simp [hr, this]
    · simp only [Bool.and_eq_true, decide_eq_true_eq]; omega

end Sys2Proof.Machine
end

