-- ==== Sys2Proof/Tests/Slice0.lean ====
section
/-! SUPPORT. The model's own tests: ill-formed terms, one word of each encoding written out from spec/30_encoding.md R95, one step of
each instruction with the result of spec/95_test_vectors.md (its vector is named), and a witness of the hypotheses of each
statement. -/

namespace Sys2Proof.Tests

open Sys2Proof.Machine

/-! ### Helpers -/

/-- Reset, the word `hi lo` at 0x200, and the inputs of the coming cycle. -/
def word (hi lo : Byte) (keypad : BitVec 16 := 0) (rand : Byte := 0) : State :=
  (State.reset.writeBytes 0x200 [hi, lo]).supply ⟨keypad, rand⟩

/-- One step answers a next state with the property `p`. -/
def gives (s : State) (p : State → Bool) : Bool :=
  match step s with
  | .next t => p t
  | _ => false

/-- All these cells, written `(x, y)`, are on (`c = true`) or off (`c = false`). -/
def cells (s : State) (c : Bool) (xys : List (Fin 64 × Fin 32)) : Bool := xys.all fun p => s.disp[p.2][p.1] == c

/-- `s` with one cell on. -/
def withCell (s : State) (x : Fin 64) (y : Fin 32) : State :=
  { s with disp := s.disp.set y (s.disp[y].set x true) }

/-- `s` with `sp` slots in use. -/
def withSp (s : State) (sp : Fin 17) : State := { s with sp := sp }

/-- `s` waiting for a key for register `x`. -/
def waiting (s : State) (x : Reg) : State := s.park x

/-- `s` with the parameters `c`. -/
def withConfig (s : State) (c : Config) : State := { s with config := c }

/-! ### Well-formedness: an unknown word that is an instruction's is no term of its own -/

theorem test_wellFormed_refuses_cls : ¬ (Instr.unknown 0x00E0).WellFormed := by decide
theorem test_wellFormed_refuses_shl : ¬ (Instr.unknown 0x8ABE).WellFormed := by decide
theorem test_wellFormed_refuses_loadRegs : ¬ (Instr.unknown 0xFF65).WellFormed := by decide
theorem test_wellFormed_unknown : (Instr.unknown 0x8128).WellFormed ∧ (Instr.unknown 0x0000).WellFormed := by decide
theorem test_wellFormed_drw : (Instr.drw 1 2 0xF).WellFormed := by decide

/-! ### Decoding and encoding: words written out from R95, `op X Y N` from the left -/

theorem test_decode_families_0_to_4 :
    decodeWord 0x00E0 = .cls ∧ decodeWord 0x00EE = .ret ∧ decodeWord 0x1ABC = .jp 0xABC ∧
    decodeWord 0x2210 = .call 0x210 ∧ decodeWord 0x3A7F = .seImm 10 0x7F ∧
    decodeWord 0x4005 = .sneImm 0 0x05 := by decide

theorem test_decode_families_5_to_7_and_9 :
    decodeWord 0x5120 = .seReg 1 2 ∧ decodeWord 0x9AB0 = .sneReg 10 11 ∧ decodeWord 0x6F01 = .ldImm 15 0x01 ∧
    decodeWord 0x7301 = .addImm 3 0x01 := by decide

theorem test_decode_family_8 :
    decodeWord 0x8AB0 = .ldReg 10 11 ∧ decodeWord 0x8AB1 = .orReg 10 11 ∧ decodeWord 0x8AB2 = .andReg 10 11 ∧
    decodeWord 0x8AB3 = .xorReg 10 11 ∧ decodeWord 0x8AB4 = .addReg 10 11 ∧ decodeWord 0x8AB5 = .subReg 10 11 ∧
    decodeWord 0x8AB6 = .shr 10 11 ∧ decodeWord 0x8AB7 = .subnReg 10 11 ∧ decodeWord 0x8ABE = .shl 10 11 := by decide

theorem test_decode_families_A_to_E :
    decodeWord 0xA202 = .ldI 0x202 ∧ decodeWord 0xB234 = .jpV0 0x234 ∧ decodeWord 0xC10F = .rnd 1 0x0F ∧
    decodeWord 0xD12F = .drw 1 2 0xF ∧ decodeWord 0xE19E = .skp 1 ∧ decodeWord 0xE1A1 = .sknp 1 := by decide

theorem test_decode_family_F :
    decodeWord 0xF207 = .ldVDt 2 ∧ decodeWord 0xF10A = .ldK 1 ∧ decodeWord 0xF015 = .ldDt 0 ∧
    decodeWord 0xF318 = .ldSt 3 ∧ decodeWord 0xF31E = .addI 3 ∧ decodeWord 0xF429 = .ldF 4 ∧
    decodeWord 0xF033 = .ldB 0 ∧ decodeWord 0xFF55 = .storeRegs 15 ∧ decodeWord 0xF265 = .loadRegs 2 := by decide

/-- The words of TC11. -/
theorem test_decode_unknown :
    ([0x0000, 0x00E1, 0x0123, 0x5121, 0x9AB3, 0x8128, 0x812F, 0xE19F, 0xE100, 0xF100, 0xF1FF, 0xF130, 0xF175] :
      List Word).all (fun w => (decodeWord w).rowNumber == 35) = true := by decide

/-- TC2, TC3. -/
theorem test_fields :
    opField 0xD12F = 0xD ∧ xField 0xD12F = 1 ∧ yField 0xD12F = 2 ∧ nField 0xD12F = 0xF ∧ nnField 0xD12F = 0x2F ∧
    nnnField 0x8AB4 = 0xAB4 := by decide

theorem test_decode_truncated : decode [0x12] = .refused .truncated ∧ decode [] = .refused .truncated := by decide

theorem test_encode :
    encode (.drw 1 2 0xF) = 0xD12F ∧ encode (.subnReg 10 11) = 0x8AB7 ∧ encode (.jpV0 0x234) = 0xB234 ∧
    encode (.storeRegs 15) = 0xFF55 ∧ encode (.rnd 1 0x0F) = 0xC10F := by decide

theorem test_tableWord :
    decodeTableWord 16 0xA202 = some (.ldI 0x202) ∧ decodeTableWord 16 0x00E0 = some .cls := by decide

/-! ### One step of each instruction -/

/-- S5. -/
theorem test_cls : gives (withCell (withCell (word 0x00 0xE0) 5 5) 63 31) (fun t => cells t false [(5, 5), (63, 31)]) = true := by decide

/-- FL6. -/
theorem test_ret :
    gives (withSp { word 0x00 0xEE with stack := (State.reset.stack.set 0 0x0300).set 1 0x0456 } 2)
      (fun t => t.pc == 0x456 && t.sp == 1) = true := by decide

/-- FL7. -/
theorem test_ret_underflow :
    gives ((word 0x00 0xEE).setDt 0x01)
      (fun t => t.faultCause == some .stackUnderflow && t.pc == 0x202 && t.dt == 0x01) = true := by decide

/-- FL1. -/
theorem test_jp : gives (word 0x1A 0xBC) (fun t => t.pc == 0xABC) = true := by decide

/-- TC7: the jump replaces the advance past the end. -/
theorem test_jp_at_the_end :
    gives (((State.reset.writeBytes 0xFFE [0x12, 0x00]).setPc 0xFFE).supply ⟨0, 0⟩)
      (fun t => t.pc == 0x200 && t.mode == .running) = true := by decide

/-- FL4. -/
theorem test_call :
    gives (withSp (word 0x23 0x00) 15) (fun t => t.stack[15] == 0x0202 && t.sp == 16 && t.pc == 0x300) = true := by decide

/-- FL5. -/
theorem test_call_overflow :
    gives (withSp (word 0x23 0x00) 16)
      (fun t => t.faultCause == some .stackOverflow && t.pc == 0x202 && t.sp == 16) = true := by decide

/-- FL10, both parameter values. -/
theorem test_jpV0 :
    gives (((word 0xB2 0x34).setV 0 0x10).setV 2 0x20) (fun t => t.pc == 0x244) = true ∧
    gives (withConfig (((word 0xB2 0x34).setV 0 0x10).setV 2 0x20) { Config.standard with jumpReg := .vx })
      (fun t => t.pc == 0x254) = true := by decide

/-- FL9. -/
theorem test_jpV0_past_the_end : gives ((word 0xBF 0xFF).setV 0 0x02) (fun t => t.pc == 0x1001 && t.mode == .running) = true := by
  decide

/-- SK1, SK2. -/
theorem test_seImm :
    gives (word 0x31 0x00) (fun t => t.pc == 0x204) = true ∧
    gives ((word 0x31 0x00).setV 1 0x01) (fun t => t.pc == 0x202) = true := by decide

/-- SK3, SK4. -/
theorem test_sneImm :
    gives (word 0x40 0x05) (fun t => t.pc == 0x204) = true ∧
    gives ((word 0x40 0x05).setV 0 0x05) (fun t => t.pc == 0x202) = true := by decide

/-- SK5, SK6. -/
theorem test_seReg :
    gives (((word 0x51 0x20).setV 1 0x07).setV 2 0x07) (fun t => t.pc == 0x204) = true ∧
    gives (((word 0x51 0x20).setV 1 0x07).setV 2 0x08) (fun t => t.pc == 0x202) = true := by decide

/-- SK9, SK10. -/
theorem test_sneReg :
    gives (((word 0x91 0x20).setV 1 0x07).setV 2 0x08) (fun t => t.pc == 0x204) = true ∧
    gives (word 0x93 0x30) (fun t => t.pc == 0x202) = true := by decide

/-- SK11, SK12, SK15. -/
theorem test_skp :
    gives ((word 0xE1 0x9E 0x0200).setV 1 0x09) (fun t => t.pc == 0x204) = true ∧
    gives ((word 0xE1 0x9E 0x0100).setV 1 0x09) (fun t => t.pc == 0x202) = true ∧
    gives ((word 0xE1 0x9E 0x0200).setV 1 0x19)
      (fun t => t.faultCause == some .keyIndexOutOfRange && t.pc == 0x202) = true := by decide

/-- SK13, SK14, SK15. -/
theorem test_sknp :
    gives ((word 0xE1 0xA1 0x0200).setV 1 0x09) (fun t => t.pc == 0x202) = true ∧
    gives ((word 0xE1 0xA1 0x0000).setV 1 0x09) (fun t => t.pc == 0x204) = true ∧
    gives ((word 0xE1 0xA1 0x0200).setV 1 0x19)
      (fun t => t.faultCause == some .keyIndexOutOfRange && t.pc == 0x202) = true := by decide

/-- S1. -/
theorem test_ldImm : gives (word 0x6A 0x7F) (fun t => t.getV 10 == 0x7F) = true := by decide

/-- S2. -/
theorem test_addImm :
    gives (((word 0x73 0x01).setV 3 0xFF).setV 15 0x01) (fun t => t.getV 3 == 0x00 && t.getV 15 == 0x01) = true := by decide

/-- AL2. -/
theorem test_ldReg : gives ((word 0x81 0x20).setV 2 0x7E) (fun t => t.getV 1 == 0x7E) = true := by decide

/-- AL3. -/
theorem test_orReg :
    gives ((((word 0x81 0x21).setV 1 0xF0).setV 2 0x0F).setV 15 0x01)
      (fun t => t.getV 1 == 0xFF && t.getV 15 == 0x01) = true := by decide

/-- AL4. -/
theorem test_andReg : gives (((word 0x81 0x22).setV 1 0xF3).setV 2 0x3F) (fun t => t.getV 1 == 0x33) = true := by decide

/-- AL5. -/
theorem test_xorReg : gives (((word 0x81 0x23).setV 1 0xFF).setV 2 0x0F) (fun t => t.getV 1 == 0xF0) = true := by decide

/-- S3. -/
theorem test_addReg :
    gives (((word 0x81 0x24).setV 1 0xFF).setV 2 0x01) (fun t => t.getV 1 == 0x00 && t.getV 15 == 0x01) = true := by decide

/-- AL8: the flag is written last. -/
theorem test_addReg_into_flag :
    gives (((word 0x8F 0x14).setV 15 0xFF).setV 1 0x01) (fun t => t.getV 15 == 0x01) = true := by decide

/-- S4. -/
theorem test_subReg :
    gives (((word 0x81 0x25).setV 1 0x03).setV 2 0x05) (fun t => t.getV 1 == 0xFE && t.getV 15 == 0x00) = true := by decide

/-- AL10: equal operands do not borrow. -/
theorem test_subReg_equal :
    gives ((word 0x81 0x15).setV 1 0x07) (fun t => t.getV 1 == 0x00 && t.getV 15 == 0x01) = true := by decide

/-- AL12, AL13. -/
theorem test_subnReg :
    gives (((word 0x81 0x27).setV 1 0x03).setV 2 0x05) (fun t => t.getV 1 == 0x02 && t.getV 15 == 0x01) = true ∧
    gives (((word 0x81 0x27).setV 1 0x05).setV 2 0x03) (fun t => t.getV 1 == 0xFE && t.getV 15 == 0x00) = true := by decide

/-- AL15, both parameter values. -/
theorem test_shr :
    gives (((word 0x81 0x26).setV 1 0xFF).setV 2 0x04) (fun t => t.getV 1 == 0x7F && t.getV 15 == 0x01) = true ∧
    gives (withConfig (((word 0x81 0x26).setV 1 0xFF).setV 2 0x04) { Config.standard with shiftSrc := .vy })
      (fun t => t.getV 1 == 0x02 && t.getV 15 == 0x00) = true := by decide

/-- AL16: the result is written last. -/
theorem test_shr_into_flag : gives ((word 0x8F 0x06).setV 15 0x05) (fun t => t.getV 15 == 0x02) = true := by decide

/-- AL17, AL19. -/
theorem test_shl :
    gives ((word 0x81 0x0E).setV 1 0x81) (fun t => t.getV 1 == 0x02 && t.getV 15 == 0x01) = true ∧
    gives ((word 0x81 0x0E).setV 1 0x40) (fun t => t.getV 1 == 0x80 && t.getV 15 == 0x00) = true := by decide

/-- AL18. -/
theorem test_shl_into_flag : gives ((word 0x8F 0x0E).setV 15 0x81) (fun t => t.getV 15 == 0x02) = true := by decide

/-- IM1; TC1: the high byte comes first. -/
theorem test_ldI :
    gives (word 0xAF 0xFF) (fun t => t.index == 0x0FFF) = true ∧
    gives (word 0xA2 0x02) (fun t => t.index == 0x0202) = true := by decide

/-- IM2, IM3. -/
theorem test_addI :
    gives (((word 0xF0 0x1E).setIndex 0x0FFF).setV 0 0x01) (fun t => t.index == 0x1000 && t.mode == .running) = true ∧
    gives (((word 0xF3 0x1E).setIndex 0xFFFF).setV 3 0x02) (fun t => t.index == 0x0001) = true := by decide

/-- IM4, IM5. -/
theorem test_ldF :
    gives ((word 0xF4 0x29).setV 4 0x0F) (fun t => t.index == 0x009B) = true ∧
    gives ((word 0xF4 0x29).setV 4 0xFF) (fun t => t.index == 0x054B) = true := by decide

/-- IM7. -/
theorem test_ldB :
    gives (((word 0xF0 0x33).setV 0 0xFF).setIndex 0x0FFD)
      (fun t => [t.readByte 0xFFD, t.readByte 0xFFE, t.readByte 0xFFF] == [0x02, 0x05, 0x05]) = true := by decide

/-- IM8. -/
theorem test_ldB_out_of_range :
    gives (((word 0xF0 0x33).setV 0 0xFF).setIndex 0x0FFE)
      (fun t => t.faultCause == some .memOutOfRange && t.readByte 0xFFE == 0x00 && t.pc == 0x202) = true := by decide

/-- IM12, and IM10's step of `I`. -/
theorem test_storeRegs :
    gives (((((word 0xF2 0x55).setV 0 0x01).setV 1 0x02).setV 2 0x03).setV 3 0x99 |>.setIndex 0x0400)
      (fun t => [t.readByte 0x400, t.readByte 0x401, t.readByte 0x402, t.readByte 0x403] == [0x01, 0x02, 0x03, 0x00]) = true ∧
    gives (withConfig ((word 0xFF 0x55).setIndex 0x0FF0) { Config.standard with loadStoreIncI := true })
      (fun t => t.index == 0x1000) = true := by decide

/-- IM11. -/
theorem test_storeRegs_out_of_range :
    gives (((word 0xFF 0x55).setIndex 0x0FF1).setV 0 0x01)
      (fun t => t.faultCause == some .memOutOfRange && t.readByte 0xFF1 == 0x00) = true := by decide

/-- IM13, both parameter values. -/
theorem test_loadRegs :
    gives ((word 0xF4 0x65).setIndex 0x0050)
      (fun t => [t.getV 0, t.getV 1, t.getV 4, t.getV 5] == [0xF0, 0x90, 0xF0, 0x00] && t.index == 0x0050) = true ∧
    gives (withConfig ((word 0xF4 0x65).setIndex 0x0050) { Config.standard with loadStoreIncI := true })
      (fun t => t.index == 0x0055) = true := by decide

/-- IM14. -/
theorem test_loadRegs_out_of_range :
    gives ((word 0xF0 0x65).setIndex 0x1000) (fun t => t.faultCause == some .memOutOfRange) = true := by decide

/-- RT2, RT3. -/
theorem test_rnd :
    gives (word 0xC1 0xF0 0 0xA7) (fun t => t.getV 1 == 0xA0) = true ∧
    gives ((word 0xC1 0x00 0 0xFF).setV 1 0x55) (fun t => t.getV 1 == 0x00) = true := by decide

/-- RT8. -/
theorem test_ldVDt :
    gives (((word 0xF2 0x07).setDt 0x3A).setSt 0x03)
      (fun t => t.getV 2 == 0x3A && t.dt == 0x39 && t.st == 0x02) = true := by decide

/-- RT4, RT6. -/
theorem test_ldDt :
    gives ((word 0xF0 0x15).setV 0 0x3C) (fun t => t.dt == 0x3B) = true ∧
    gives (word 0xF1 0x15) (fun t => t.dt == 0x00) = true := by decide

/-- RT7. -/
theorem test_ldSt : gives ((word 0xF3 0x18).setV 3 0x02) (fun t => t.st == 0x01) = true := by decide

/-- RT10, first cycle. -/
theorem test_ldK :
    gives (((word 0xFF 0x0A 0x8008).setV 15 0xAA).setDt 0x05)
      (fun t => t.mode == .awaitingKey && t.waitReg == 15 && t.dt == 0x04 && t.getV 15 == 0xAA) = true := by decide

/-- RT10, second cycle: the least key held. -/
theorem test_ldK_wakes :
    gives (waiting ((word 0x00 0x00 0x8008).setDt 0x04) 15)
      (fun t => t.mode == .running && t.getV 15 == 0x03 && t.dt == 0x04 && t.pc == 0x200) = true := by decide

/-- DR1: the glyph A, rows 0 to 2. -/
theorem test_drw :
    gives ((word 0xD0 0x15).setIndex 0x0082)
      (fun t => cells t true [(0, 0), (1, 0), (2, 0), (3, 0), (0, 1), (3, 1), (0, 2), (1, 2), (2, 2), (3, 2)] &&
        cells t false [(4, 0), (1, 1), (2, 1), (4, 1), (4, 2)] && t.getV 15 == 0x00) = true := by decide

/-- DR2 (wrapped start, clipped columns) and DR4 (collision). -/
theorem test_drw_clips_and_collides :
    gives (((((word 0xD0 0x11).setIndex 0x0300).writeByte 0x300 0xFF).setV 0 0x7C).setV 1 0x20)
      (fun t => cells t true [(60, 0), (63, 0)] && cells t false [(59, 0), (0, 0), (0, 1)]) = true ∧
    gives (withCell (((word 0xD0 0x11).setIndex 0x0300).writeByte 0x300 0xC0) 1 0)
      (fun t => cells t true [(0, 0)] && cells t false [(1, 0)] && t.getV 15 == 0x01) = true := by decide

/-- TC5, TC6. -/
theorem test_unknown :
    gives (((word 0x00 0x00).setDt 0x01).setSt 0x03) (fun t => t.dt == 0x00 && t.st == 0x02 && t.pc == 0x202) = true ∧
    gives (word 0x00 0x00) (fun t => t.dt == 0x00 && t.st == 0x00) = true := by decide

/-! ### The cycle, the ROM load, the placed word -/

/-- TC9. -/
theorem test_fetch_out_of_range :
    gives ((word 0x00 0x00).setPc 0xFFF) (fun t => t.faultCause == some .pcOutOfRange && t.pc == 0xFFF) = true := by decide

/-- TC10. -/
theorem test_faulted_cycle :
    gives (((word 0x00 0x00 0xFFFF).raise .stackUnderflow).setDt 0x05) (fun t => t.dt == 0x05 && t.pc == 0x200) = true := by
  decide

/-- TC4: an odd `pc` is legal. -/
theorem test_odd_pc :
    gives (((State.reset.writeBytes 0x201 [0x61, 0x07]).setPc 0x201).supply ⟨0, 0⟩)
      (fun t => t.getV 1 == 0x07 && t.pc == 0x203) = true := by decide

/-- R243: the byte order of the font, its first and its last byte. -/
theorem test_font : State.reset.readByte 0x050 = 0xF0 ∧ State.reset.readByte 0x09F = 0x80 ∧ State.reset.readByte 0x0A0 = 0 := by
  decide

/-- S9: the ROM `A2 02 D0 0F`. -/
theorem test_launch :
    (match launch Config.standard [0xA2, 0x02, 0xD0, 0x0F] with
      | .next t => gives t (fun u => u.index == 0x0202 && u.fetchWord == 0xD00F)
      | _ => false) = true := by decide

/-- FL2, and P1's halt loop: only a jump to its own address ends a run by itself. -/
theorem test_selfJump :
    gives ((word 0x12 0x00).setDt 0x02) (fun t => t.pc == 0x200 && t.dt == 0x01 && t.atSelfJump) = true ∧
    (word 0x12 0x02).ending = none ∧ (word 0x22 0x00).ending = none ∧
    (waiting (word 0x12 0x00) 1).ending = none := by decide

/-- Words of the table run as the first instruction after reset, those that read the free inputs included. -/
theorem test_placed_words :
    [0x00E0, 0xA202, 0xC055, 0xD00F, 0xE09E, 0xE0A1, 0xFF65, 0x0000].all
      (fun w => gives (State.reset.withFetchWord 16 w) fun t => t.mode == .running) = true := by decide

theorem test_placed_call : gives (State.reset.withFetchWord 16 0x2ABC) (fun t => t.pc == 0xABC && t.sp == 1) = true := by decide

/-- The codes of spec/60_exceptions.md R210. -/
theorem test_faultCode :
    [none, some .pcOutOfRange, some .stackUnderflow, some .stackOverflow, some .memOutOfRange, some .keyIndexOutOfRange].map
      faultCode = [0, 1, 2, 3, 4, 5] := by decide

/-- The display as the host reads it, row-major: cell (0, 1) is the 65th (spec/10_state.md R46). -/
theorem test_displayRead : (withCell State.reset 0 1).displayRead[64]? = some true := by decide

/-! ### Witnesses: a concrete state and operands that meet all the hypotheses of a statement together, clause by clause -/

/-- A Running state whose next word is `hi lo`, at the last address a fetch can read. -/
def atTop (hi lo : Byte) : State := ((State.reset.writeBytes 0xFFE [hi, lo]).setPc 0xFFE).supply ⟨0, 0⟩

/-- The core runs `i` in this cycle, as `RunsNow` says. -/
def runs (s : State) (i : Instr) : Bool := s.mode == .running && decide (s.pc.toNat ≤ 4094) && decodeWord s.fetchWord == i

theorem witness_DecodeFollowsOpcodeMap :
    (⟨15, 0xF00F, 0x8004⟩ : OpcodeRow) ∈ opcodeMap ∧ (0x8AB4 : Word) &&& 0xF00F = 0x8004 := by decide

theorem witness_DecodeOfEncode :
    (Instr.drw 15 0 0xF).WellFormed ∧ (Instr.unknown 0x5121).WellFormed ∧ (Instr.unknown 0xFFFF).WellFormed := by decide

theorem witness_StepRunsDecodedInstruction :
    (atTop 0x61 0x07).mode = .running ∧ (atTop 0x61 0x07).pc.toNat ≤ 4094 ∧
    decode [(atTop 0x61 0x07).readByte (atTop 0x61 0x07).pc.toNat,
      (atTop 0x61 0x07).readByte ((atTop 0x61 0x07).pc.toNat + 1)] = .instr (.ldImm 1 0x07) [] ∧
    (Instr.ldImm 1 0x07).WellFormed := by decide

/-- A Running and an AwaitingKey state. -/
theorem witness_CycleTakesSuppliedInputs :
    (word 0 0 0x0A00 0xA7).inputs = ⟨0x0A00, 0xA7⟩ :: [] ∧ (word 0 0 0x0A00 0xA7).mode = .running ∧
    (waiting (word 0 0 0x0A00 0xA7) 1).inputs = ⟨0x0A00, 0xA7⟩ :: [] ∧
    (waiting (word 0 0 0x0A00 0xA7) 1).mode = .awaitingKey := by decide

theorem witness_CycleWithoutSupplyDrawsFreeInputs :
    State.reset.inputs = [] ∧ State.reset.mode = .running ∧ (waiting State.reset 1).inputs = [] ∧
    (waiting State.reset 1).mode = .awaitingKey := by decide

theorem witness_FetchOutOfRangeFaults :
    ((word 0 0).setPc 0xFFF).mode = .running ∧ 4094 < ((word 0 0).setPc 0xFFF).pc.toNat := by decide

theorem witness_ParkedCycleChangesNothing :
    (waiting (word 0 0) 1).mode = .awaitingKey ∧ (waiting (word 0 0) 1).sampleInputs.key = 0 := by decide

/-- The least key and, below, the greatest key as the least one held. -/
theorem witness_WakingCycleWritesLeastKey :
    (waiting (word 0 0 0x8001) 1).mode = .awaitingKey ∧
    (waiting (word 0 0 0x8001) 1).sampleInputs.key.getLsbD (0 : Reg).val = true ∧
    ∀ j : Reg, j < 0 → (waiting (word 0 0 0x8001) 1).sampleInputs.key.getLsbD j.val = false := by decide

theorem witness_WakingCycleWritesLeastKey_15 :
    (waiting (word 0 0 0x8000) 1).mode = .awaitingKey ∧
    (waiting (word 0 0 0x8000) 1).sampleInputs.key.getLsbD (15 : Reg).val = true ∧
    ∀ j : Reg, j < 15 → (waiting (word 0 0 0x8000) 1).sampleInputs.key.getLsbD j.val = false := by decide

theorem witness_FaultedCycleChangesNothing : ((word 0 0).raise .stackOverflow).mode = .faulted := by decide

theorem witness_TimersTickAfterExecute :
    (atTop 0x61 0x07).mode = .running ∧ (atTop 0x61 0x07).pc.toNat ≤ 4094 ∧
    ∃ u, exec (decodeWord (atTop 0x61 0x07).fetchWord) (atTop 0x61 0x07).sampleInputs.advance = .next u ∧
      u.mode ≠ .faulted :=
  ⟨by decide, by decide, _, rfl, by decide⟩

/-- A cycle that faults, and a cycle that is not Running. -/
theorem witness_TimersTickAfterExecute_no_tick :
    (∃ t, step (word 0x00 0xEE) = .next t ∧ t.mode = .faulted) ∧
    (∃ t, step (waiting (word 0 0) 1) = .next t ∧ (waiting (word 0 0) 1).mode ≠ .running) :=
  ⟨⟨_, rfl, by decide⟩, ⟨_, rfl, by decide⟩⟩

/-- The premises of the inner clauses hold of this state too: its word is neither FX15 nor FX18. -/
theorem witness_TimersCountInstructions :
    (word 0x61 0x07).mode = .running ∧ (∃ t, step (word 0x61 0x07) = .next t ∧ t.mode ≠ .faulted) ∧
    (∀ x, decodeWord (word 0x61 0x07).fetchWord ≠ .ldDt x) ∧ ∀ x, decodeWord (word 0x61 0x07).fetchWord ≠ .ldSt x :=
  ⟨by decide, ⟨_, rfl, by decide⟩, by decide, by decide⟩

/-- One state for each mode. -/
theorem witness_ModeTransitions :
    (∃ t, step (word 0xF1 0x0A) = .next t ∧ (word 0xF1 0x0A).mode = .running ∧ t.mode = .awaitingKey) ∧
    (∃ t, step (waiting (word 0 0 0x0001) 1) = .next t ∧ (waiting (word 0 0 0x0001) 1).mode = .awaitingKey) ∧
    (∃ t, step ((word 0 0).raise .stackOverflow) = .next t ∧ ((word 0 0).raise .stackOverflow).mode = .faulted) :=
  ⟨⟨_, rfl, by decide, by decide⟩, ⟨_, rfl, by decide⟩, ⟨_, rfl, by decide⟩⟩

/-- Each cause of the table, and a cycle without one. -/
theorem witness_ExecuteFaultsExactAndPrecise :
    runs (word 0x00 0xEE) .ret = true ∧ faultIn (word 0x00 0xEE) .ret = some .stackUnderflow ∧
    runs (withSp (word 0x23 0x00) 16) (.call 0x300) = true ∧
    faultIn (withSp (word 0x23 0x00) 16) (.call 0x300) = some .stackOverflow ∧
    runs ((word 0xF0 0x33).setIndex 0xFFE) (.ldB 0) = true ∧
    faultIn ((word 0xF0 0x33).setIndex 0xFFE) (.ldB 0) = some .memOutOfRange ∧
    runs ((word 0xE1 0x9E).setV 1 0x10) (.skp 1) = true ∧
    faultIn ((word 0xE1 0x9E).setV 1 0x10) (.skp 1) = some .keyIndexOutOfRange ∧
    runs ((word 0xF0 0x33).setIndex 0xFFD) (.ldB 0) = true ∧
    faultIn ((word 0xF0 0x33).setIndex 0xFFD) (.ldB 0) = none := by decide

theorem witness_OnlyListedInstructionsWrite : ∃ t, exec (.addReg 1 2) State.reset = .next t := ⟨_, rfl⟩

theorem witness_StepKeepsInvariant : (word 0x12 0x00).Inv ∧ ∃ t, step (word 0x12 0x00) = .next t :=
  ⟨by unfold State.Inv; decide, _, rfl⟩

theorem witness_EqualReadsEqualMemories :
    Memory.wf Config.standard [(0x050, 0x00), (0xFFF, 0x01)] ∧
    ∀ a, Memory.read Config.standard [(0x050, 0x00), (0xFFF, 0x01)] a =
      Memory.read Config.standard [(0x050, 0x00), (0xFFF, 0x01)] a :=
  ⟨by decide, fun _ => rfl⟩

theorem witness_FetchSeesStores : (atTop 0 0).pc.toNat ≤ 4094 ∧ ((word 0 0).setPc 0x201).pc.toNat ≤ 4094 := by decide

theorem witness_ResetLeavesTheSpecsValues : (0x04F < 0x050 ∨ 0x0A0 ≤ 0x04F) ∧ (0x0A0 < 0x050 ∨ 0x0A0 ≤ 0x0A0) := by decide

theorem witness_RomLoadCopiesVerbatim :
    1 ≤ ([0x12] : List Byte).length ∧ ([0x12] : List Byte).length ≤ 3584 ∧
    1 ≤ (List.replicate 3584 (0x12 : Byte)).length ∧ (List.replicate 3584 (0x12 : Byte)).length ≤ 3584 ∧
    ([] : List Byte).length = 0 ∧ 3584 < (List.replicate 3585 (0x12 : Byte)).length := by
  simp only [List.length_replicate]; decide

theorem witness_ReturnPops :
    0 < (withSp (word 0x00 0xEE) 1).sp.val ∧ 0 < (withSp (word 0x00 0xEE) 16).sp.val ∧
    (word 0x00 0xEE).sp.val = 0 ∧ runs (word 0x00 0xEE) .ret = true := by decide

theorem witness_JumpSetsPc : opField 0x1000 = 0x1 ∧ opField 0x1FFF = 0x1 := by decide

theorem witness_CallPushes :
    opField 0x2FFF = 0x2 ∧ (word 0x23 0x00).sp.val < 16 ∧ (withSp (word 0x23 0x00) 15).sp.val < 16 ∧
    (withSp (word 0x23 0x00) 16).sp.val = 16 ∧ runs (withSp (word 0x23 0x00) 16) (.call 0x300) = true := by decide

theorem witness_CallThenReturnRestores : (withSp State.reset 15).sp.val < 16 := by decide

theorem witness_SkipOnImmediate : opField 0x3F00 = 0x3 ∧ opField 0x40FF = 0x4 := by decide

/-- Each of the two clauses with the literal low nibble 0 and with another one. -/
theorem witness_SkipOnRegisters :
    opField 0x5120 = 0x5 ∧ nField 0x5120 = 0x0 ∧ opField 0x5121 = 0x5 ∧ nField 0x5121 ≠ 0x0 ∧
    opField 0x9120 = 0x9 ∧ nField 0x9120 = 0x0 ∧ opField 0x912F = 0x9 ∧ nField 0x912F ≠ 0x0 := by decide

theorem witness_SkipOnKey :
    ((State.reset.setV 1 0x0F).getV 1).toNat ≤ 15 ∧ 15 < ((State.reset.setV 1 0x10).getV 1).toNat ∧
    15 < ((State.reset.setV 15 0xFF).getV 15).toNat := by decide

theorem witness_LoadImmediate_AddImmediate : opField 0x6FFF = 0x6 ∧ opField 0x7F00 = 0x7 := by decide

theorem witness_CopyAndLogic :
    opField 0x8AB0 = 0x8 ∧ nField 0x8AB0 = 0x0 ∧ opField 0x8AB1 = 0x8 ∧ nField 0x8AB1 = 0x1 ∧
    opField 0x8AB2 = 0x8 ∧ nField 0x8AB2 = 0x2 ∧ opField 0x8AB3 = 0x8 ∧ nField 0x8AB3 = 0x3 := by decide

/-- `x ≠ 15` is the premise on the result of 8XY4, 8XY5, 8XY7 and on the flag of 8XY6, 8XYE. -/
theorem witness_AddWithCarryOut_and_Subtract :
    opField 0x8AB4 = 0x8 ∧ nField 0x8AB4 = 0x4 ∧ nField 0x8AB5 = 0x5 ∧ nField 0x8AB7 = 0x7 ∧ (14 : Reg) ≠ 15 := by decide

theorem witness_ShiftRightByOne_ShiftLeftByOne : (0 : Reg) ≠ 15 ∧ (14 : Reg) ≠ 15 := by decide

theorem witness_LoadIndex : opField 0xAFFF = 0xA := by decide

/-- The last index that does not fault and the first that does. -/
theorem witness_StoreDecimalDigits :
    opField 0xF033 = 0xF ∧ nnField 0xF033 = 0x33 ∧ (State.reset.setIndex 4093).index.toNat + 2 ≤ 4095 ∧
    4095 < (State.reset.setIndex 4094).index.toNat + 2 ∧ 4095 < (State.reset.setIndex 0xFFFF).index.toNat + 2 := by decide

theorem witness_StoreRegisters_LoadRegisters :
    (State.reset.setIndex 4080).index.toNat + (15 : Reg).val ≤ 4095 ∧ (0 : Reg) ≤ 15 ∧
    (State.reset.setIndex 4095).index.toNat + (0 : Reg).val ≤ 4095 ∧
    4095 < (State.reset.setIndex 4081).index.toNat + (15 : Reg).val := by decide

theorem witness_MaskedRandomByte :
    runs (word 0xC1 0x0F 0 0xA7) (.rnd 1 0x0F) = true ∧ (word 0xC1 0x0F 0 0xA7).inputs = ⟨0, 0xA7⟩ :: [] := by decide

theorem witness_ReadDelayTimer :
    opField 0xFF07 = 0xF ∧ nnField 0xFF07 = 0x07 ∧ runs (atTop 0xFF 0x07) (.ldVDt 15) = true := by decide

theorem witness_SetDelayTimer : runs (atTop 0xF0 0x15) (.ldDt 0) = true := by decide

theorem witness_SetSoundTimer :
    opField 0xF318 = 0xF ∧ nnField 0xF318 = 0x18 ∧ runs (atTop 0xF3 0x18) (.ldSt 3) = true := by decide

theorem witness_KeyWaitParks : runs (atTop 0xFF 0x0A) (.ldK 15) = true := by decide

theorem witness_UnknownWordIsNoOperation :
    (word 0x51 0x21).mode = .running ∧ (word 0x51 0x21).pc.toNat ≤ 4094 ∧
    ∀ r ∈ opcodeMap, ¬ (word 0x51 0x21).fetchWord &&& r.mask = r.value := by decide

/-- No row at all, the last index that does not fault, the first that does. -/
theorem witness_DrawIsCellwiseXor :
    (0x0 : Nibble).toNat = 0 ∧ (State.reset.setIndex 4081).index.toNat + (0xF : Nibble).toNat - 1 ≤ 4095 ∧
    0 < (0xF : Nibble).toNat ∧ 4095 < (State.reset.setIndex 4082).index.toNat + (0xF : Nibble).toNat - 1 := by decide

theorem witness_DrawTwiceRestores :
    (14 : Reg) ≠ 15 ∧ (0 : Reg) ≠ 15 ∧
    (State.reset.setIndex 4095).index.toNat + (0x1 : Nibble).toNat - 1 ≤ 4095 := by decide

theorem witness_SelfJumpLoopsAndTicks :
    (word 0x12 0x00).atSelfJump = true ∧ ((atTop 0x1F 0xFE).setDt 0x05).atSelfJump = true := by decide

/-- Runs of the three ends: a self-jump reached, a fault, the host's ceasing. -/
theorem witness_RunEndsAtFirstEnding :
    (∃ t, (word 0x12 0x00).run 5 = .next t ∧ t.ending = some .selfJump) ∧
    (∃ t, (word 0x00 0xEE).run 5 = .next t ∧ t.ending = some .fault) ∧
    (∃ t, (word 0x60 0x01).run 1 = .next t ∧ t.ending = none) :=
  ⟨⟨_, rfl, by decide⟩, ⟨_, rfl, by decide⟩, ⟨_, rfl, by decide⟩⟩

/-- `runs` is `RunsNow`. -/
theorem runs_iff (s : State) (i : Instr) : runs s i = true ↔ RunsNow s i := by
  simp [runs, RunsNow, and_assoc]

end Sys2Proof.Tests
end

section
/-! Proofs for spec/00_scope.md. Every instruction answers a next state and changes only the parts of the state it is
listed for; so every cycle answers a next state (R18), and one that takes inputs ends with the inputs it sampled. -/

namespace Sys2Proof.Machine

variable {s t u : State} {ps qs : List Part}

/-! ### Frames: composition, and the operations Laws/Step.lean leaves out -/

theorem Part.Kept.trans {p : Part} (h : p.Kept s t) (h' : p.Kept t u) : p.Kept s u := by
  cases p <;> simp_all [Part.Kept]

theorem ChangesOnly.mono (h : ChangesOnly s t ps) (hsub : ps ⊆ qs) : ChangesOnly s t qs :=
  fun p hp => h p fun hmem => hp (hsub hmem)

theorem ChangesOnly.trans (h : ChangesOnly s t ps) (h' : ChangesOnly t u ps) : ChangesOnly s u ps :=
  fun p hp => (h p hp).trans (h' p hp)

/-- Two frames one after the other, each with its own list. -/
theorem ChangesOnly.append (h : ChangesOnly s t ps) (h' : ChangesOnly t u qs) : ChangesOnly s u (ps ++ qs) :=
  (h.mono (List.subset_append_left ps qs)).trans (h'.mono (List.subset_append_right ps qs))

variable (s)

theorem State.changesOnly_setDisp (d : Display) : ChangesOnly s (s.setDisp d) [.disp] := by
  intro p hp; cases p <;> simp_all [Part.Kept]

/-- The frame of FX65's load, which replaces the register file as a whole. -/
theorem State.changesOnly_replaceV (v : Vector Byte 16) : ChangesOnly s { s with v := v } [.v] := by
  intro p hp; cases p <;> simp_all [Part.Kept, State.readByte]

theorem State.changesOnly_setDt (b : Byte) : ChangesOnly s (s.setDt b) [.dt] := by
  intro p hp; cases p <;> simp_all [Part.Kept]

theorem State.changesOnly_setSt (b : Byte) : ChangesOnly s (s.setSt b) [.st] := by
  intro p hp; cases p <;> simp_all [Part.Kept]

theorem State.changesOnly_park (x : Reg) : ChangesOnly s (s.park x) [.mode, .waitReg] := by
  intro p hp; cases p <;> simp_all [Part.Kept]

theorem State.changesOnly_advance : ChangesOnly s s.advance [.pc] := by
  intro p hp; cases p <;> simp_all [Part.Kept]

theorem State.changesOnly_endCycle : ChangesOnly s s.endCycle [.dt, .st] := by
  by_cases h : s.mode = .faulted
  · rw [s.endCycle_of_faulted h]; exact ChangesOnly.refl s _
  · rw [s.endCycle_of_not_faulted h]; exact s.changesOnly_tick

theorem State.changesOnly_awaitKey : ChangesOnly s s.awaitKey [.v, .mode] := by
  cases h : lowestKey s.key with
  | none => rw [s.awaitKey_of_none ((lowestKey_eq_none _).1 h)]; exact ChangesOnly.refl s _
  | some k =>
    rw [s.awaitKey_of_some k h]
    intro p hp; cases p <;> simp_all [Part.Kept, State.readByte]

theorem State.changesOnly_of_push {w : Word} (h : s.push w = some t) : ChangesOnly s t [.stack, .sp] := by
  have hlt : s.sp.val < 16 := by
    by_contra hge
    rw [s.push_of_full w (by omega)] at h
    cases h
  rw [s.push_of_lt w hlt] at h
  cases h
  intro p hp; cases p <;> simp_all [Part.Kept, State.readByte]

theorem State.changesOnly_of_pop {w : Word} (h : s.pop = some (w, t)) : ChangesOnly s t [.sp] := by
  have hpos : 0 < s.sp.val := by
    by_contra hz
    rw [s.pop_of_empty (by omega)] at h
    cases h
  rw [s.pop_of_pos hpos] at h
  cases h
  intro p hp; cases p <;> simp_all [Part.Kept, State.readByte]

/-! ### The execute step -/

/-- `r` is a next state that differs from `s` in the parts `ps` only. -/
def AnswersNext (r : Result) (s : State) (ps : List Part) : Prop := ∃ t, r = .next t ∧ ChangesOnly s t ps

variable {s}

theorem ChangesOnly.answersNext (h : ChangesOnly s t ps) : AnswersNext (.next t) s ps := ⟨t, rfl, h⟩

theorem AnswersNext.ite {c : Prop} [Decidable c] (ht : ChangesOnly s t ps) (hu : ChangesOnly s u ps) :
    AnswersNext (if c then .next t else .next u) s ps := by
  split
  · exact ht.answersNext
  · exact hu.answersNext

variable (s)

/-- A raised fault is within the frame of every instruction that lists `mode` and `fault_cause`. -/
theorem State.changesOnly_raise_of_mem (c : Fault) (hm : .mode ∈ ps) (hf : .faultCause ∈ ps) :
    ChangesOnly s (s.raise c) ps :=
  (s.changesOnly_raise c).mono (by simp [hm, hf])

theorem execRet_answersNext : AnswersNext (execRet s) s [.pc, .sp, .mode, .faultCause] := by
  unfold execRet
  split
  · exact (s.changesOnly_raise_of_mem _ (by simp) (by simp)).answersNext
  next w t h => exact (((s.changesOnly_of_pop h).append (t.changesOnly_setPc w)).mono (by simp)).answersNext

theorem execCall_answersNext (nnn : Addr) :
    AnswersNext (execCall nnn s) s [.pc, .stack, .sp, .mode, .faultCause] := by
  unfold execCall
  split
  · exact (s.changesOnly_raise_of_mem _ (by simp) (by simp)).answersNext
  next t h => exact (((s.changesOnly_of_push h).append (t.changesOnly_setPc _)).mono (by simp)).answersNext

theorem execSkp_answersNext (x : Reg) : AnswersNext (execSkp x s) s [.pc, .mode, .faultCause] :=
  .ite (s.changesOnly_raise_of_mem _ (by simp) (by simp)) ((s.changesOnly_skipIf _).mono (by simp))

theorem execSknp_answersNext (x : Reg) : AnswersNext (execSknp x s) s [.pc, .mode, .faultCause] :=
  .ite (s.changesOnly_raise_of_mem _ (by simp) (by simp)) ((s.changesOnly_skipIf _).mono (by simp))

theorem execDrw_answersNext (x y : Reg) (n : Nibble) :
    AnswersNext (execDrw x y n s) s [.v, .disp, .mode, .faultCause] :=
  .ite (((s.changesOnly_setDisp _).append (State.changesOnly_setV _ 15 _)).mono (by simp))
    (s.changesOnly_raise_of_mem _ (by simp) (by simp))

theorem execLdB_answersNext (x : Reg) : AnswersNext (execLdB x s) s [.mem, .mode, .faultCause] :=
  .ite ((s.changesOnly_writeBytes _ _).mono (by simp)) (s.changesOnly_raise_of_mem _ (by simp) (by simp))

theorem mem_mayWrite_storeRegs (c : Config) (x : Reg) (p : Part) : p ∈ mayWrite c (.storeRegs x) ↔
    p = .mem ∨ (c.loadStoreIncI = true ∧ p = .index) ∨ p = .mode ∨ p = .faultCause := by
  cases h : c.loadStoreIncI <;> simp [mayWrite, h]

theorem mem_mayWrite_loadRegs (c : Config) (x : Reg) (p : Part) : p ∈ mayWrite c (.loadRegs x) ↔
    p = .v ∨ (c.loadStoreIncI = true ∧ p = .index) ∨ p = .mode ∨ p = .faultCause := by
  cases h : c.loadStoreIncI <;> simp [mayWrite, h]

variable {s} in
/-- FX55 and FX65 list `I` only under `LOADSTORE_INC_I`; without it they store the value `I` has. -/
theorem State.changesOnly_setIndex_indexAfter (x : Reg) (hindex : t.index = s.index)
    (hinc : s.config.loadStoreIncI = true → .index ∈ ps) : ChangesOnly t (t.setIndex (s.indexAfter x)) ps := by
  by_cases h : s.config.loadStoreIncI = true
  · exact (t.changesOnly_setIndex _).mono (by simpa using hinc h)
  · intro p _; cases p <;> simp [Part.Kept, State.indexAfter, h, hindex]

theorem execStoreRegs_answersNext (x : Reg) :
    AnswersNext (execStoreRegs x s) s (mayWrite s.config (.storeRegs x)) := by
  refine .ite (.trans (t := s.writeBytes s.index.toNat (s.registersTo x)) ?_ ?_) ?_
  · exact (s.changesOnly_writeBytes _ _).mono (by simp [mem_mayWrite_storeRegs])
  · exact State.changesOnly_setIndex_indexAfter x (by simp) (by simp [mem_mayWrite_storeRegs])
  · exact s.changesOnly_raise_of_mem _ (by simp [mem_mayWrite_storeRegs]) (by simp [mem_mayWrite_storeRegs])

theorem execLoadRegs_answersNext (x : Reg) :
    AnswersNext (execLoadRegs x s) s (mayWrite s.config (.loadRegs x)) := by
  refine .ite (.trans (t := { s with v := s.registersLoaded x }) ?_ ?_) ?_
  · exact (s.changesOnly_replaceV _).mono (by simp [mem_mayWrite_loadRegs])
  · exact State.changesOnly_setIndex_indexAfter x rfl (by simp [mem_mayWrite_loadRegs])
  · exact s.changesOnly_raise_of_mem _ (by simp [mem_mayWrite_loadRegs]) (by simp [mem_mayWrite_loadRegs])

/-- Every arm of `exec` answers a next state, and changes only the parts that spec/10_state.md §1 lists for it. -/
theorem exec_answersNext (i : Instr) : AnswersNext (exec i s) s (mayWrite s.config i) := by
  cases i with
  | cls => exact (s.changesOnly_setDisp _).answersNext
  | ret => exact execRet_answersNext s
  | call nnn => exact execCall_answersNext s nnn
  | jp nnn => exact (s.changesOnly_setPc _).answersNext
  | jpV0 nnn => exact (s.changesOnly_setPc _).answersNext
  | seImm x nn => exact (s.changesOnly_skipIf _).answersNext
  | sneImm x nn => exact (s.changesOnly_skipIf _).answersNext
  | seReg x y => exact (s.changesOnly_skipIf _).answersNext
  | sneReg x y => exact (s.changesOnly_skipIf _).answersNext
  | skp x => exact execSkp_answersNext s x
  | sknp x => exact execSknp_answersNext s x
  | ldImm x nn => exact (s.changesOnly_setV x _).answersNext
  | addImm x nn => exact (s.changesOnly_setV x _).answersNext
  | ldReg x y => exact (s.changesOnly_setV x _).answersNext
  | orReg x y => exact (s.changesOnly_setV x _).answersNext
  | andReg x y => exact (s.changesOnly_setV x _).answersNext
  | xorReg x y => exact (s.changesOnly_setV x _).answersNext
  | rnd x nn => exact (s.changesOnly_setV x _).answersNext
  | ldVDt x => exact (s.changesOnly_setV x _).answersNext
  | addReg x y => exact (s.changesOnly_setV_setV x 15 _ _).answersNext
  | subReg x y => exact (s.changesOnly_setV_setV x 15 _ _).answersNext
  | subnReg x y => exact (s.changesOnly_setV_setV x 15 _ _).answersNext
  | shr x y => exact (s.changesOnly_setV_setV 15 x _ _).answersNext
  | shl x y => exact (s.changesOnly_setV_setV 15 x _ _).answersNext
  | ldI nnn => exact (s.changesOnly_setIndex _).answersNext
  | addI x => exact (s.changesOnly_setIndex _).answersNext
  | ldF x => exact (s.changesOnly_setIndex _).answersNext
  | ldDt x => exact (s.changesOnly_setDt _).answersNext
  | ldSt x => exact (s.changesOnly_setSt _).answersNext
  | ldK x => exact (s.changesOnly_park x).answersNext
  | drw x y n => exact execDrw_answersNext s x y n
  | ldB x => exact execLdB_answersNext s x
  | storeRegs x => exact execStoreRegs_answersNext s x
  | loadRegs x => exact execLoadRegs_answersNext s x
  | unknown w => exact (ChangesOnly.refl s _).answersNext

/-! ### The cycle -/

/-- No instruction is listed as a writer of what a cycle samples. -/
theorem hostParts_not_mem_mayWrite (c : Config) (i : Instr) : ∀ p ∈ hostParts, p ∉ mayWrite c i := by
  cases i <;> cases h : c.loadStoreIncI <;> simp [hostParts, mayWrite, h]

variable {s} in
theorem ChangesOnly.keeps_hostParts (h : ChangesOnly s t ps) (hout : ∀ p ∈ hostParts, p ∉ ps) :
    ∀ p ∈ hostParts, p.Kept s t :=
  fun p hp => h p (hout p hp)

theorem step_of_faulted (h : s.mode = .faulted) : step s = .next s := by
  simp [step, cycle, h]

/-- A Running cycle whose inputs are sampled answers a next state and leaves them as sampled. -/
theorem runningCycle_next_keeps_hostParts : ∃ t, runningCycle s = .next t ∧ ∀ p ∈ hostParts, p.Kept s t := by
  by_cases hfetch : s.pc.toNat ≤ 4094
  · obtain ⟨u, hu, hexec⟩ := exec_answersNext s.advance (decodeWord s.fetchWord)
    have hframe := (s.changesOnly_advance.append hexec).append u.changesOnly_endCycle
    refine ⟨u.endCycle, by rw [runningCycle_of_fetch s hfetch, hu], hframe.keeps_hostParts fun p hp => ?_⟩
    have hpc : p ∉ [.pc] := by revert p; decide
    have htick : p ∉ [.dt, .st] := by revert p; decide
    simp only [List.mem_append, not_or]
    exact ⟨⟨hpc, hostParts_not_mem_mayWrite _ _ p hp⟩, htick⟩
  · exact ⟨_, runningCycle_of_no_fetch s (by omega), (s.changesOnly_raise _).keeps_hostParts (by decide)⟩

/-- R120: a cycle that takes inputs answers a next state, which still holds the inputs as sampled. -/
theorem step_next_keeps_sampled (h : s.mode = .running ∨ s.mode = .awaitingKey) :
    ∃ t, step s = .next t ∧ ∀ p ∈ hostParts, p.Kept s.sampleInputs t := by
  rcases h with hm | hm
  · rw [step_of_running s hm]
    exact runningCycle_next_keeps_hostParts _
  · exact ⟨_, step_of_awaitingKey s hm, (State.changesOnly_awaitKey _).keeps_hostParts (by decide)⟩

/-- Settles O9: the cycle ends with the inputs it sampled, and from an empty queue it samples the free values. -/
theorem cycleWithoutSupplyDrawsFreeInputs : Obligations.CycleWithoutSupplyDrawsFreeInputs := by
  intro s hqueue hmode
  obtain ⟨t, ht, hkept⟩ := step_next_keeps_sampled s hmode
  have hkey : t.key = s.sampleInputs.key := hkept .key (by decide)
  have hrand : t.rand = s.sampleInputs.rand := hkept .rand (by decide)
  have hinputs : t.inputs = s.sampleInputs.inputs := hkept .inputs (by decide)
  have hdraws : t.draws = s.sampleInputs.draws := hkept .draws (by decide)
  exact ⟨t, ht, by simp [hkey, State.cycleInput, hqueue], by simp [hrand, State.cycleInput, hqueue],
    by simp [hinputs, hqueue], by simp [hdraws, hqueue]⟩

/-- Settles O10, by the mode: a Running or AwaitingKey cycle ends with its sampled inputs, a Faulted one with `s`. -/
theorem stepAlwaysAnswersNext : Obligations.StepAlwaysAnswersNext := by
  intro s
  cases hm : s.mode with
  | running => exact (step_next_keeps_sampled s (.inl hm)).imp fun _ h => h.1
  | awaitingKey => exact (step_next_keeps_sampled s (.inr hm)).imp fun _ h => h.1
  | faulted => exact ⟨s, step_of_faulted s hm⟩

end Sys2Proof.Machine
end

section
/-! Proofs for spec/20_memory.md. An instruction is two bytes, the byte of the lower address first (R61): as `decode` reads
them from a list, and as a cycle fetches them from memory after stores. -/

namespace Sys2Proof.Machine

/-- Settles O6, by computation: every sequence is written out and decoding is total, so each answer is evaluated. -/
theorem specWordsDecode : Obligations.SpecWordsDecode := by
  unfold Obligations.SpecWordsDecode
  decide

/-- R61, R73: the word fetched is the two bytes last stored at `pc` and `pc + 1`; the later store leaves the byte at `pc`. -/
theorem State.fetchWord_writeByte_pc (s : State) (hi lo : Byte) (hpc : s.pc.toNat ≤ 4094) :
    ((s.writeByte s.pc.toNat hi).writeByte (s.pc.toNat + 1) lo).fetchWord = wordOfBytes hi lo := by
  have hhi : s.pc.toNat < 4096 := by omega
  have hlo : s.pc.toNat + 1 < 4096 := by omega
  simp [State.fetchWord, State.readByte_writeByte, hhi, hlo]

/-- Settles O23: the word fetched is the one of the bytes stored, and that word's high byte counts 256. -/
theorem fetchSeesStores : Obligations.FetchSeesStores := by
  intro s hi lo hpc
  rw [s.fetchWord_writeByte_pc hi lo hpc, wordOfBytes_toNat, Nat.mul_comm]

end Sys2Proof.Machine
end

section
/-! Proofs for spec/30_encoding.md: the fields as masks and shifts (R91), decode after encode and encode after decode
(R92, R93, R95), and the rows of the opcode map. -/

namespace Sys2Proof

/-! ### The fields (R91) -/

/-- A mask of `len` ones from bit `start` up, shifted down by `start`, is a quotient and a remainder. -/
theorem and_mask_shiftRight (v start len : Nat) :
    (v &&& (2 ^ len - 1) <<< start) >>> start = v / 2 ^ start % 2 ^ len := by
  rw [Nat.shiftRight_and_distrib, Nat.shiftLeft_shiftRight, Nat.and_two_pow_sub_one_eq_mod, Nat.shiftRight_eq_div_pow]

/-- Settles O1: each field and its mask and shift are the same quotient and remainder of the word's number. -/
theorem fieldsAreMasksAndShifts : Obligations.FieldsAreMasksAndShifts := by
  intro w
  refine ⟨?_, ?_, ?_, ?_, ?_, ?_⟩
  · rw [opField_toNat, BitVec.toNat_ushiftRight, Nat.shiftRight_eq_div_pow]
  · rw [xField_val]; exact (and_mask_shiftRight w.toNat 8 4).symm
  · rw [yField_val]; exact (and_mask_shiftRight w.toNat 4 4).symm
  · rw [nField_toNat]; exact (Nat.and_two_pow_sub_one_eq_mod w.toNat 4).symm
  · rw [nnField_toNat]; exact (Nat.and_two_pow_sub_one_eq_mod w.toNat 8).symm
  · rw [nnnField_toNat]; exact (Nat.and_two_pow_sub_one_eq_mod w.toNat 12).symm

/-! ### Encode after decode: no bit of a word is dropped (R92, R93) -/

section Fields

variable {w : Word} {op : Nibble}

theorem formatA_of_fields {nnn : Addr} (hop : opField w = op) (hnnn : nnnField w = nnn) : formatA op nnn = w := by
  rw [← hop, ← hnnn, formatA_fields]

theorem formatXI_of_fields {nn : Byte} (hop : opField w = op) (hnn : nnField w = nn) :
    formatXI op (xField w) nn = w := by
  rw [← hop, ← hnn, formatXI_fields]

theorem formatXY_of_fields {n : Nibble} (hop : opField w = op) (hn : nField w = n) :
    formatXY op (xField w) (yField w) n = w := by
  rw [← hop, ← hn, formatXY_fields]

theorem encode_decode0 (hop : opField w = 0x0) : encode (decode0 w) = w := by
  unfold decode0
  split
  · exact formatA_of_fields (nnn := 0x0E0) hop ‹_›
  · exact formatA_of_fields (nnn := 0x0EE) hop ‹_›
  · rfl

theorem encode_decode5 (hop : opField w = 0x5) : encode (decode5 w) = w := by
  unfold decode5
  split
  · exact formatXY_of_fields hop ‹_›
  · rfl

theorem encode_decode9 (hop : opField w = 0x9) : encode (decode9 w) = w := by
  unfold decode9
  split
  · exact formatXY_of_fields hop ‹_›
  · rfl

theorem encode_decode8 (hop : opField w = 0x8) : encode (decode8 w) = w := by
  unfold decode8
  split
  case h_10 => rfl
  all_goals exact formatXY_of_fields hop ‹_›

theorem encode_decodeE (hop : opField w = 0xE) : encode (decodeE w) = w := by
  unfold decodeE
  split
  case h_3 => rfl
  all_goals exact formatXI_of_fields hop ‹_›

theorem encode_decodeF (hop : opField w = 0xF) : encode (decodeF w) = w := by
  unfold decodeF
  split
  case h_10 => rfl
  all_goals exact formatXI_of_fields hop ‹_›

end Fields

/-- R93: encoding a decoded word gives the word back, family by family. -/
theorem encode_decodeWord (w : Word) : encode (decodeWord w) = w := by
  rcases nibble_cases (opField w) with h | h | h | h | h | h | h | h | h | h | h | h | h | h | h | h
  · rw [decodeWord_family0 h]; exact encode_decode0 h
  · rw [decodeWord_family1 h]; exact formatA_of_fields h rfl
  · rw [decodeWord_family2 h]; exact formatA_of_fields h rfl
  · rw [decodeWord_family3 h]; exact formatXI_of_fields h rfl
  · rw [decodeWord_family4 h]; exact formatXI_of_fields h rfl
  · rw [decodeWord_family5 h]; exact encode_decode5 h
  · rw [decodeWord_family6 h]; exact formatXI_of_fields h rfl
  · rw [decodeWord_family7 h]; exact formatXI_of_fields h rfl
  · rw [decodeWord_family8 h]; exact encode_decode8 h
  · rw [decodeWord_family9 h]; exact encode_decode9 h
  · rw [decodeWord_familyA h]; exact formatA_of_fields h rfl
  · rw [decodeWord_familyB h]; exact formatA_of_fields h rfl
  · rw [decodeWord_familyC h]; exact formatXI_of_fields h rfl
  · rw [decodeWord_familyD h]; exact formatXY_of_fields h rfl
  · rw [decodeWord_familyE h]; exact encode_decodeE h
  · rw [decodeWord_familyF h]; exact encode_decodeF h

/-- Only the word itself is decoded to as an unknown word. -/
theorem eq_of_decodeWord_eq_unknown {w u : Word} (h : decodeWord w = .unknown u) : u = w := by
  simpa [h, encode] using encode_decodeWord w

/-! ### Rows of the opcode map and instructions (R95, R100) -/

theorem wellFormed_unknown_iff (w : Word) :
    (Instr.unknown w).WellFormed ↔ ∀ r ∈ opcodeMap, ¬ r.Matches w := by
  simp [Instr.WellFormed, Instr.wellFormed]

/-- R95 numbers its rows 1 to 34 without a gap. -/
theorem exists_row_of_number : ∀ n < 35, 0 < n → ∃ r ∈ opcodeMap, r.number = n := by decide

/-- Every instruction but an unknown word is well-formed and has its row in the map. -/
theorem unknown_or_row (i : Instr) :
    (∃ w, i = .unknown w) ∨ (i.WellFormed ∧ ∃ r ∈ opcodeMap, r.number = i.rowNumber) := by
  cases i
  case unknown w => exact .inl ⟨w, rfl⟩
  all_goals exact .inr ⟨rfl, exists_row_of_number _ (by simp [Instr.rowNumber]) (by simp [Instr.rowNumber])⟩

/-- R92: the word of every instruction has the fixed bits of the instruction's row. -/
theorem encode_fixedBits : (i : Instr) → Laws.FixedBits.Statement i
  | .cls => Laws.FixedBits.cls
  | .ret => Laws.FixedBits.ret
  | .jp nnn => Laws.FixedBits.jp nnn
  | .call nnn => Laws.FixedBits.call nnn
  | .seImm x nn => Laws.FixedBits.seImm x nn
  | .sneImm x nn => Laws.FixedBits.sneImm x nn
  | .seReg x y => Laws.FixedBits.seReg x y
  | .sneReg x y => Laws.FixedBits.sneReg x y
  | .ldImm x nn => Laws.FixedBits.ldImm x nn
  | .addImm x nn => Laws.FixedBits.addImm x nn
  | .ldReg x y => Laws.FixedBits.ldReg x y
  | .orReg x y => Laws.FixedBits.orReg x y
  | .andReg x y => Laws.FixedBits.andReg x y
  | .xorReg x y => Laws.FixedBits.xorReg x y
  | .addReg x y => Laws.FixedBits.addReg x y
  | .subReg x y => Laws.FixedBits.subReg x y
  | .subnReg x y => Laws.FixedBits.subnReg x y
  | .shr x y => Laws.FixedBits.shr x y
  | .shl x y => Laws.FixedBits.shl x y
  | .ldI nnn => Laws.FixedBits.ldI nnn
  | .jpV0 nnn => Laws.FixedBits.jpV0 nnn
  | .rnd x nn => Laws.FixedBits.rnd x nn
  | .drw x y n => Laws.FixedBits.drw x y n
  | .skp x => Laws.FixedBits.skp x
  | .sknp x => Laws.FixedBits.sknp x
  | .ldVDt x => Laws.FixedBits.ldVDt x
  | .ldDt x => Laws.FixedBits.ldDt x
  | .ldSt x => Laws.FixedBits.ldSt x
  | .addI x => Laws.FixedBits.addI x
  | .ldK x => Laws.FixedBits.ldK x
  | .ldF x => Laws.FixedBits.ldF x
  | .ldB x => Laws.FixedBits.ldB x
  | .storeRegs x => Laws.FixedBits.storeRegs x
  | .loadRegs x => Laws.FixedBits.loadRegs x
  | .unknown w => Laws.FixedBits.unknown w

/-- A word is decoded to itself as an unknown word, or to a well-formed instruction whose row it matches. -/
theorem decodeWord_unknown_or_row (w : Word) :
    decodeWord w = .unknown w ∨ ((decodeWord w).WellFormed ∧
      ∃ r ∈ opcodeMap, r.number = (decodeWord w).rowNumber ∧ r.Matches w) := by
  rcases unknown_or_row (decodeWord w) with ⟨u, hu⟩ | ⟨hwf, r, hr, hn⟩
  · exact .inl (by rw [hu, eq_of_decodeWord_eq_unknown hu])
  · have hm := encode_fixedBits _ hwf r hr hn
    rw [encode_decodeWord] at hm
    exact .inr ⟨hwf, r, hr, hn, hm⟩

/-! ### Decode after encode (R92, R95) -/

/-- R100: a word that matches no row is decoded to itself as an unknown word. -/
theorem decodeWord_of_no_row (w : Word) (h : ∀ r ∈ opcodeMap, ¬ r.Matches w) : decodeWord w = .unknown w := by
  rcases decodeWord_unknown_or_row w with hu | ⟨-, r, hr, -, hm⟩
  · exact hu
  · exact absurd hm (h r hr)

/-- Settles O3: the fields of a written format are its operands, and an unknown word matches no row. -/
theorem decodeOfEncode : Obligations.DecodeOfEncode := by
  intro i hwf
  cases i with
  | cls | ret => rfl
  | jp | call | ldI | jpV0 | seImm | sneImm | ldImm | addImm | rnd | drw => simp [encode, decodeWord]
  | seReg => simp [encode, decodeWord_family5, decode5]
  | sneReg => simp [encode, decodeWord_family9, decode9]
  | ldReg | orReg | andReg | xorReg | addReg | subReg | subnReg | shr | shl =>
    simp [encode, decodeWord_family8, decode8]
  | skp | sknp => simp [encode, decodeWord_familyE, decodeE]
  | ldVDt | ldDt | ldSt | addI | ldK | ldF | ldB | storeRegs | loadRegs =>
    simp [encode, decodeWord_familyF, decodeF]
  | unknown w => exact decodeWord_of_no_row w ((wellFormed_unknown_iff w).1 hwf)

/-! ### The bits the dispatch reads (R96, R97, R98) -/

/-- The bits of a word that decide the row of its instruction, by the top nibble. -/
def dispatchMask (op : Nibble) : Word :=
  match op with
  | 0x0#4 => 0xFFFF
  | 0x5#4 | 0x8#4 | 0x9#4 => 0xF00F
  | 0xE#4 | 0xF#4 => 0xF0FF
  | _ => 0xF000

theorem decode5_rowNumber_congr {w u : Word} (h : nField w = nField u) :
    (decode5 w).rowNumber = (decode5 u).rowNumber := by
  unfold decode5; rw [h]; split <;> rfl

theorem decode8_rowNumber_congr {w u : Word} (h : nField w = nField u) :
    (decode8 w).rowNumber = (decode8 u).rowNumber := by
  unfold decode8; rw [h]; split <;> rfl

theorem decode9_rowNumber_congr {w u : Word} (h : nField w = nField u) :
    (decode9 w).rowNumber = (decode9 u).rowNumber := by
  unfold decode9; rw [h]; split <;> rfl

theorem decodeE_rowNumber_congr {w u : Word} (h : nnField w = nnField u) :
    (decodeE w).rowNumber = (decodeE u).rowNumber := by
  unfold decodeE; rw [h]; split <;> rfl

theorem decodeF_rowNumber_congr {w u : Word} (h : nnField w = nnField u) :
    (decodeF w).rowNumber = (decodeF u).rowNumber := by
  unfold decodeF; rw [h]; split <;> rfl

theorem opField_and_F000 (w : Word) : opField (w &&& 0xF000) = opField w := by rw [and_F000, opField_formatA]

theorem opField_and_F00F (w : Word) : opField (w &&& 0xF00F) = opField w := by rw [and_F00F, opField_formatXY]

theorem nField_and_F00F (w : Word) : nField (w &&& 0xF00F) = nField w := by rw [and_F00F, nField_formatXY]

theorem opField_and_F0FF (w : Word) : opField (w &&& 0xF0FF) = opField w := by rw [and_F0FF, opField_formatXI]

theorem nnField_and_F0FF (w : Word) : nnField (w &&& 0xF0FF) = nnField w := by rw [and_F0FF, nnField_formatXI]

/-- R96, R97, R98: the bits under the dispatch mask alone decide the row of the decoded instruction. -/
theorem decodeWord_rowNumber_masked (w : Word) :
    (decodeWord (w &&& dispatchMask (opField w))).rowNumber = (decodeWord w).rowNumber := by
  rcases nibble_cases (opField w) with h | h | h | h | h | h | h | h | h | h | h | h | h | h | h | h <;> rw [h]
  · exact congrArg (fun u => (decodeWord u).rowNumber) (and_FFFF w)
  · rw [decodeWord_family1 h]
    exact (congrArg Instr.rowNumber (decodeWord_family1 ((opField_and_F000 w).trans h))).trans rfl
  · rw [decodeWord_family2 h]
    exact (congrArg Instr.rowNumber (decodeWord_family2 ((opField_and_F000 w).trans h))).trans rfl
  · rw [decodeWord_family3 h]
    exact (congrArg Instr.rowNumber (decodeWord_family3 ((opField_and_F000 w).trans h))).trans rfl
  · rw [decodeWord_family4 h]
    exact (congrArg Instr.rowNumber (decodeWord_family4 ((opField_and_F000 w).trans h))).trans rfl
  · rw [decodeWord_family5 h]
    exact (congrArg Instr.rowNumber (decodeWord_family5 ((opField_and_F00F w).trans h))).trans
      (decode5_rowNumber_congr (nField_and_F00F w))
  · rw [decodeWord_family6 h]
    exact (congrArg Instr.rowNumber (decodeWord_family6 ((opField_and_F000 w).trans h))).trans rfl
  · rw [decodeWord_family7 h]
    exact (congrArg Instr.rowNumber (decodeWord_family7 ((opField_and_F000 w).trans h))).trans rfl
  · rw [decodeWord_family8 h]
    exact (congrArg Instr.rowNumber (decodeWord_family8 ((opField_and_F00F w).trans h))).trans
      (decode8_rowNumber_congr (nField_and_F00F w))
  · rw [decodeWord_family9 h]
    exact (congrArg Instr.rowNumber (decodeWord_family9 ((opField_and_F00F w).trans h))).trans
      (decode9_rowNumber_congr (nField_and_F00F w))
  · rw [decodeWord_familyA h]
    exact (congrArg Instr.rowNumber (decodeWord_familyA ((opField_and_F000 w).trans h))).trans rfl
  · rw [decodeWord_familyB h]
    exact (congrArg Instr.rowNumber (decodeWord_familyB ((opField_and_F000 w).trans h))).trans rfl
  · rw [decodeWord_familyC h]
    exact (congrArg Instr.rowNumber (decodeWord_familyC ((opField_and_F000 w).trans h))).trans rfl
  · rw [decodeWord_familyD h]
    exact (congrArg Instr.rowNumber (decodeWord_familyD ((opField_and_F000 w).trans h))).trans rfl
  · rw [decodeWord_familyE h]
    exact (congrArg Instr.rowNumber (decodeWord_familyE ((opField_and_F0FF w).trans h))).trans
      (decodeE_rowNumber_congr (nnField_and_F0FF w))
  · rw [decodeWord_familyF h]
    exact (congrArg Instr.rowNumber (decodeWord_familyF ((opField_and_F0FF w).trans h))).trans
      (decodeF_rowNumber_congr (nnField_and_F0FF w))

/-- The mask of each row reads the bits the dispatch reads for the row's top nibble. -/
theorem row_mask_eq_dispatchMask : ∀ r ∈ opcodeMap, r.mask = dispatchMask (opField r.value) := by decide

/-- Each row's match, as a word, decodes to an instruction of that row. -/
theorem decodeWord_row_value : ∀ r ∈ opcodeMap, (decodeWord r.value).rowNumber = r.number := by decide

/-- R96: each row's mask reads the whole top nibble. -/
theorem row_mask_topNibble : ∀ r ∈ opcodeMap, opField r.mask = 0xF := by decide

/-- Under a row's match, the top nibble is the row's. -/
theorem opField_of_matches {w : Word} {r : OpcodeRow} (hr : r ∈ opcodeMap) (hm : r.Matches w) :
    opField w = opField r.value := by
  have hand : opField (w &&& r.mask) = opField w &&& opField r.mask := BitVec.extractLsb'_and
  rw [row_mask_topNibble r hr] at hand
  rw [← hm, hand]
  exact (BitVec.and_allOnes (x := opField w)).symm

/-- R95: a word that matches a row is decoded to an instruction of that row. -/
theorem decodeWord_rowNumber_of_matches {w : Word} {r : OpcodeRow} (hr : r ∈ opcodeMap) (hm : r.Matches w) :
    (decodeWord w).rowNumber = r.number := by
  rw [← decodeWord_rowNumber_masked, opField_of_matches hr hm, ← row_mask_eq_dispatchMask r hr, hm,
    decodeWord_row_value r hr]

/-! ### The opcode map and well-formedness (R93, R95, R100) -/

/-- R100: an unknown word of the decoder matches no row. -/
theorem decodeWord_wellFormed (w : Word) : (decodeWord w).WellFormed := by
  rcases decodeWord_unknown_or_row w with hu | ⟨hwf, -⟩
  · rw [hu, wellFormed_unknown_iff]
    intro r hr hm
    have hn := decodeWord_rowNumber_of_matches hr hm
    rw [hu] at hn
    exact Laws.FixedBits.row_below r hr hn.symm
  · exact hwf

/-- Settles O2: the dispatch reads the bits of the row's mask, and encoding writes them; a word's row is the one row of
its instruction's number. -/
theorem decodeFollowsOpcodeMap : Obligations.DecodeFollowsOpcodeMap := by
  refine ⟨fun w r hr => ⟨fun hn => ?_, decodeWord_rowNumber_of_matches hr⟩, fun w r hr q hq hrw hqw => ?_⟩
  · have hm := encode_fixedBits (decodeWord w) (decodeWord_wellFormed w) r hr hn.symm
    rwa [encode_decodeWord] at hm
  · exact Laws.FixedBits.row_unique q hq r hr
      ((decodeWord_rowNumber_of_matches hq hqw).symm.trans (decodeWord_rowNumber_of_matches hr hrw))

/-- Settles O4: each family's format is rebuilt from the word's fields, and an unknown word has no row. -/
theorem encodeOfDecode : Obligations.EncodeOfDecode :=
  fun w => ⟨decodeWord_wellFormed w, encode_decodeWord w⟩

end Sys2Proof
end

section
/-! Proofs for spec/40_cycle.md. A Running cycle that can fetch ends where its execute step ended, plus the tick; the
parts that its instruction writes (`mayWrite`) say which timer value the tick acts on (R121, R127, R196). -/

namespace Sys2Proof.Machine

variable {s t u : State} {i : Instr}

/-! ### One Running cycle -/

/-- What `decode` reads from the two bytes at `pc` is what the cycle executes (R123, R124). -/
theorem State.decode_fetchBytes (s : State) : decode s.fetchBytes = .instr (decodeWord s.fetchWord) [] := rfl

theorem step_of_exec (hmode : s.mode = .running) (hpc : s.pc.toNat ≤ 4094)
    (hexec : exec (decodeWord s.fetchWord) s.sampleInputs.advance = .next u) : step s = .next u.endCycle := by
  rw [step_of_running s hmode, runningCycle_of_fetch s.sampleInputs hpc, State.sampleInputs_fetchWord, hexec]

/-- The frame of what a cycle does before its execute step: the inputs are sampled and `pc` is advanced. -/
theorem State.changesOnly_sampleInputs_advance (s : State) :
    ChangesOnly s s.sampleInputs.advance (.pc :: hostParts) :=
  (s.changesOnly_sampleInputs.append s.sampleInputs.changesOnly_advance).mono (by simp)

/-- Settles O7: the cycle's inputs, its fetch and its execute step are those of `runningCycle`, and `State.endCycle` is
the tick unless the instruction faulted. -/
theorem stepRunsDecodedInstruction : Obligations.StepRunsDecodedInstruction := by
  intro s i hmode hpc hdecode _
  obtain ⟨rfl, -⟩ := Decoded.instr.inj (s.decode_fetchBytes.symm.trans hdecode)
  exact ⟨rfl, s.changesOnly_sampleInputs_advance,
    (step_of_running s hmode).trans (runningCycle_of_fetch s.sampleInputs hpc)⟩

/-! ### What the execute step does to the timers -/

theorem changesOnly_of_exec (h : exec i s = .next u) : ChangesOnly s u (mayWrite s.config i) := by
  obtain ⟨u', hu', hframe⟩ := exec_answersNext s i
  obtain rfl : u = u' := by simpa [h] using hu'
  exact hframe

/-- R192: FX15 is the one writer of `DT`. -/
theorem dt_mem_mayWrite_iff (c : Config) (i : Instr) : .dt ∈ mayWrite c i ↔ ∃ x, i = .ldDt x := by
  cases i with
  | storeRegs x => simp [mem_mayWrite_storeRegs]
  | loadRegs x => simp [mem_mayWrite_loadRegs]
  | _ => simp [mayWrite]

/-- R193: FX18 is the one writer of `ST`. -/
theorem st_mem_mayWrite_iff (c : Config) (i : Instr) : .st ∈ mayWrite c i ↔ ∃ x, i = .ldSt x := by
  cases i with
  | storeRegs x => simp [mem_mayWrite_storeRegs]
  | loadRegs x => simp [mem_mayWrite_loadRegs]
  | _ => simp [mayWrite]

theorem exec_dt_of_ne_ldDt (h : exec i s = .next u) (hne : ∀ x, i ≠ .ldDt x) : u.dt = s.dt :=
  changesOnly_of_exec h .dt (by simpa [dt_mem_mayWrite_iff] using hne)

theorem exec_st_of_ne_ldSt (h : exec i s = .next u) (hne : ∀ x, i ≠ .ldSt x) : u.st = s.st :=
  changesOnly_of_exec h .st (by simpa [st_mem_mayWrite_iff] using hne)

/-- An instruction that faults is neither of the two that set a timer: those keep the mode. -/
theorem exec_faulted_keeps_timers (hmode : s.mode = .running) (h : exec i s = .next u) (hfault : u.mode = .faulted) :
    u.dt = s.dt ∧ u.st = s.st := by
  have hwrites : .mode ∈ mayWrite s.config i := by
    by_contra hnot
    have hkept : u.mode = s.mode := changesOnly_of_exec h .mode hnot
    simp [hkept, hmode] at hfault
  constructor
  · exact exec_dt_of_ne_ldDt h (by rintro x rfl; simp [mayWrite] at hwrites)
  · exact exec_st_of_ne_ldSt h (by rintro x rfl; simp [mayWrite] at hwrites)

/-! ### The tick -/

/-- A cycle that is not Running, or that faults, leaves both timers alone. -/
theorem step_keeps_timers (h : step s = .next t) (hno : s.mode ≠ .running ∨ t.mode = .faulted) :
    t.dt = s.dt ∧ t.st = s.st := by
  obtain ⟨-, rfl⟩ | ⟨-, rfl⟩ | ⟨-, -, rfl⟩ | ⟨hmode, -, u, hexec, rfl⟩ := step_cases s t h
  · exact ⟨rfl, rfl⟩
  · have hframe := s.sampleInputs.changesOnly_awaitKey
    exact ⟨hframe .dt (by simp), hframe .st (by simp)⟩
  · exact ⟨rfl, rfl⟩
  · have hfault : u.mode = .faulted := by simpa [hmode] using hno
    rw [u.endCycle_of_faulted hfault]
    exact exec_faulted_keeps_timers (s := s.sampleInputs.advance) hmode hexec hfault

/-- Settles O15: the tick of `State.endCycle` acts on what the execute step left, and no other cycle reaches it. -/
theorem timersTickAfterExecute : Obligations.TimersTickAfterExecute := by
  refine ⟨fun s u hmode hpc hexec hok => ⟨u.tick, ?_, by simp, by simp, u.changesOnly_tick⟩,
    fun _ _ => step_keeps_timers⟩
  rw [step_of_exec hmode hpc hexec, u.endCycle_of_not_faulted hok]

/-- Settles O16: a completed cycle ends in the tick of what its instruction left, and only FX15 and FX18 left another
timer value than the cycle began with. -/
theorem timersCountInstructions : Obligations.TimersCountInstructions := by
  intro s t hmode hstep hok
  obtain ⟨hf, -⟩ | ⟨ha, -⟩ | ⟨-, -, rfl⟩ | ⟨-, -, u, hexec, rfl⟩ := step_cases s t hstep
  · simp [hmode] at hf
  · simp [hmode] at ha
  · simp at hok
  · rw [u.endCycle_of_not_faulted (by simpa using hok)]
    exact ⟨fun hne => by simp [exec_dt_of_ne_ldDt hexec hne], fun hne => by simp [exec_st_of_ne_ldSt hexec hne]⟩

/-! ### A jump to itself (spec/00_scope.md R19) -/

/-- A part that reads the same needs no place in the frame. -/
theorem ChangesOnly.of_cons_kept {p : Part} {ps : List Part} (h : ChangesOnly s t (p :: ps)) (hp : p.Kept s t) :
    ChangesOnly s t ps := by
  intro q hq
  by_cases hqp : q = p
  · exact hqp ▸ hp
  · exact h q (by simp [hqp, hq])

/-- Only `mode`, `pc` and memory decide whether a state is at a jump to itself. -/
theorem ChangesOnly.atSelfJump {ps : List Part} (h : ChangesOnly s t ps)
    (hout : ∀ p ∈ [Part.mode, .pc, .mem], p ∉ ps) : t.atSelfJump = s.atSelfJump := by
  have hmode : t.mode = s.mode := h .mode (hout .mode (by simp))
  have hpc : t.pc = s.pc := h .pc (hout .pc (by simp))
  have hmem : ∀ a, t.readByte a = s.readByte a := h .mem (hout .mem (by simp))
  simp only [State.atSelfJump, State.canFetch, State.fetchWord, hmode, hpc, hmem]

/-- R141: the jump puts `pc` back where the fetch found it, and the cycle ticks. -/
theorem step_of_atSelfJump (h : s.atSelfJump = true) :
    step s = .next (s.sampleInputs.advance.setPc s.pc).tick := by
  obtain ⟨hmode, hpc, nnn, hdecode, hself⟩ := s.atSelfJump_iff.1 h
  have hexec : exec (decodeWord s.fetchWord) s.sampleInputs.advance = .next (s.sampleInputs.advance.setPc s.pc) := by
    rw [hdecode, exec, execJp, hself]
  rw [step_of_exec hmode hpc hexec, State.endCycle_of_not_faulted _ (by simp [hmode])]

/-- Settles O57: with `pc` back in place the cycle's frame is the inputs and the timers, which keeps what makes the
state a self-jump. -/
theorem selfJumpLoopsAndTicks : Obligations.SelfJumpLoopsAndTicks := by
  intro s hjump
  have hframe : ChangesOnly s (s.sampleInputs.advance.setPc s.pc).tick (.dt :: .st :: hostParts) := by
    have hjumped := s.changesOnly_sampleInputs_advance.append (State.changesOnly_setPc _ s.pc)
    have hticked := hjumped.append (State.changesOnly_tick _)
    exact (hticked.mono (by simp [hostParts])).of_cons_kept (p := .pc) rfl
  refine ⟨_, step_of_atSelfJump hjump, ?_, by simp, by simp, hframe⟩
  rw [hframe.atSelfJump (by decide), hjump]

end Sys2Proof.Machine
end

section
/-! Proofs for spec/41_flow.md. What 1NNN, 2NNN and 00EE complete with is said once each; the round trip of a call and its
return then composes their frames and the advance between them (R140, R141, R142). -/

namespace Sys2Proof.Machine

variable {s : State}

/-- R141: a jump completes with `NNN`, unchanged as a number, in `pc`. -/
theorem execJp_next (s : State) (nnn : Addr) :
    ∃ t, exec (.jp nnn) s = .next t ∧ t.pc.toNat = nnn.toNat ∧ ChangesOnly s t [.pc] :=
  ⟨s.setPc (nnn.setWidth 16), rfl, BitVec.toNat_setWidth_of_le (by decide), s.changesOnly_setPc _⟩

/-- Settles O27: family 0x1 is decoded whole, and the jump is one write of `pc`. -/
theorem jumpSetsPc : Obligations.JumpSetsPc :=
  ⟨fun _ => decodeWord_family1, execJp_next⟩

/-- R142: a call below 16 return addresses completes; its `pc` is pushed in the slot at `sp`. -/
theorem execCall_of_lt (nnn : Addr) (h : s.sp.val < 16) :
    ∃ t, exec (.call nnn) s = .next t ∧ t.sp.val = s.sp.val + 1 ∧ t.pc.toNat = nnn.toNat ∧
      (∀ k : Fin 16, t.stack[k] = if k.val = s.sp.val then s.pc else s.stack[k]) ∧
      ChangesOnly s t [.pc, .sp, .stack] := by
  have hpush := s.push_of_lt s.pc h
  have hframe := (s.changesOnly_of_push hpush).append (State.changesOnly_setPc _ (nnn.setWidth 16))
  refine ⟨_, by rw [exec, execCall, hpush], rfl, BitVec.toNat_setWidth_of_le (by decide), fun k => ?_,
    hframe.mono (by simp)⟩
  simp [Vector.getElem_set, eq_comm]

/-- R140: a return with an occupied slot completes; `pc` is the return address of the newest one. -/
theorem execRet_of_pos (h : 0 < s.sp.val) :
    ∃ t, exec .ret s = .next t ∧ t.sp.val = s.sp.val - 1 ∧
      (∀ k : Fin 16, k.val = s.sp.val - 1 → t.pc = s.stack[k]) ∧ ChangesOnly s t [.pc, .sp] := by
  have hpop := s.pop_of_pos h
  have hframe := (s.changesOnly_of_pop hpop).append (State.changesOnly_setPc _ s.stack[s.sp.val - 1])
  refine ⟨_, by rw [exec, execRet, hpop], rfl, fun k hk => ?_, hframe.mono (by simp)⟩
  simp [hk]

/-- Settles O29: the return pops the slot the call pushed, so `pc` and `sp` are back and drop out of the frame. -/
theorem callThenReturnRestores : Obligations.CallThenReturnRestores := by
  intro s nnn hsp
  obtain ⟨t, hcall, htsp, -, htstack, hframe⟩ := execCall_of_lt nnn hsp
  obtain ⟨u, hret, husp, hupc, hframe'⟩ := execRet_of_pos (s := t.advance) (by simp [htsp])
  have hpc : u.pc = s.pc := by
    rw [hupc ⟨s.sp.val, hsp⟩ (by simp [htsp])]
    exact (htstack _).trans (if_pos rfl)
  have hspKept : u.sp = s.sp := Fin.ext (by simp [husp, htsp])
  have hstack : u.stack = t.stack := hframe' .stack (by simp)
  have hall : ChangesOnly s u [.pc, .sp, .stack] :=
    ((hframe.append t.changesOnly_advance).append hframe').mono (by simp)
  refine ⟨t, u, hcall, hret, (hall.of_cons_kept hpc).of_cons_kept hspKept, fun k hk => ?_⟩
  rw [hstack, htstack, if_neg hk.ne]

end Sys2Proof.Machine
end

section
/-! Proofs for spec/42_skip.md. A skip writes `pc` and nothing else; each instruction supplies its condition (R150, R151). -/

namespace Sys2Proof.Machine

variable {s : State}

/-- What an instruction whose meaning is a skip completes with, when its Boolean test `c` decides the rule's condition
`p`. -/
theorem exec_next_of_skipIf {i : Instr} {c : Bool} {p : Prop} [Decidable p] (hexec : exec i s = .next (s.skipIf c))
    (hc : c = true ↔ p) :
    ∃ t, exec i s = .next t ∧ t.pc = (if p then s.pc + 2 else s.pc) ∧ ChangesOnly s t [.pc] :=
  ⟨s.skipIf c, hexec, by simp only [State.skipIf_pc, hc], s.changesOnly_skipIf c⟩

/-- Settles O31: families 0x3 and 0x4 are decoded whole, and the two tests are equality and inequality of bytes. -/
theorem skipOnImmediate : Obligations.SkipOnImmediate :=
  ⟨fun _ => decodeWord_family3, fun _ => decodeWord_family4, fun _ _ _ =>
    ⟨exec_next_of_skipIf rfl beq_iff_eq, exec_next_of_skipIf rfl bne_iff_ne⟩⟩

end Sys2Proof.Machine
end

section
/-! Proofs for spec/43_alu.md. An instruction that writes one register completes with one `setV`; each instruction supplies
the fact about the byte it writes (R160 to R165). -/

namespace Sys2Proof.Machine

variable {s : State}

/-- What an instruction whose meaning is one write of `V[x]` completes with, `P` being the rule's claim about the byte
written. -/
theorem exec_next_of_setV {i : Instr} {x : Reg} {b : Byte} (P : Byte → Prop) (hexec : exec i s = .next (s.setV x b))
    (hb : P b) :
    ∃ t, exec i s = .next t ∧ P (t.getV x) ∧ RegistersChangeOnly s t [x] ∧ ChangesOnly s t [.v] :=
  ⟨s.setV x b, hexec, (s.getV_setV_self x b).symm ▸ hb, s.registersChangeOnly_setV x b, s.changesOnly_setV x b⟩

/-- Settles O34: family 0x6 is decoded whole, and the byte written is `NN`. -/
theorem loadImmediate : Obligations.LoadImmediate :=
  ⟨fun _ => decodeWord_family6, fun _ _ nn => exec_next_of_setV (· = nn) rfl rfl⟩

/-- R161: `sum8` is the sum modulo 256. -/
theorem sum8_toNat (a b : Byte) : (sum8 a b).toNat = (a.toNat + b.toNat) % 256 := BitVec.toNat_ofNat _ 8

/-- Settles O35: family 0x7 is decoded whole, and the byte written is the sum modulo 256. -/
theorem addImmediate : Obligations.AddImmediate :=
  ⟨fun _ => decodeWord_family7, fun s x nn =>
    exec_next_of_setV (fun v => v.toNat = ((s.getV x).toNat + nn.toNat) % 256) rfl (sum8_toNat _ _)⟩

/-- What an instruction completes with that writes to `V[x]` the byte computed bit by bit by `f` from `V[x]` and
`V[y]`. -/
theorem exec_next_of_bitwise {i : Instr} {x y : Reg} {b : Byte} (f : Bool → Bool → Bool)
    (hexec : exec i s = .next (s.setV x b)) (hb : ∀ k, b.getLsbD k = f ((s.getV x).getLsbD k) ((s.getV y).getLsbD k)) :
    ∃ t, exec i s = .next t ∧
      (∀ k, k < 8 → (t.getV x).getLsbD k = f ((s.getV x).getLsbD k) ((s.getV y).getLsbD k)) ∧
      RegistersChangeOnly s t [x] ∧ ChangesOnly s t [.v] :=
  exec_next_of_setV (fun v => ∀ k, k < 8 → v.getLsbD k = f ((s.getV x).getLsbD k) ((s.getV y).getLsbD k)) hexec
    fun k _ => hb k

/-- Settles O36: the low nibble selects the row of family 0x8; the copy writes `V[Y]` itself, and each logic instruction
the bitwise operation of the two bytes. -/
theorem copyAndLogic : Obligations.CopyAndLogic := by
  refine ⟨fun w hop => ?_, fun s x y => ⟨?copy, ?or, ?and, ?xor⟩⟩
  · refine ⟨?_, ?_, ?_, ?_⟩ <;> intro hn <;> simp [decodeWord_family8 hop, decode8, hn]
  case copy => exact exec_next_of_setV (· = s.getV y) rfl rfl
  case or => exact exec_next_of_bitwise (· || ·) rfl fun _ => BitVec.getLsbD_or
  case and => exact exec_next_of_bitwise (· && ·) rfl fun _ => BitVec.getLsbD_and
  case xor => exact exec_next_of_bitwise (· ^^ ·) rfl fun _ => BitVec.getLsbD_xor

end Sys2Proof.Machine
end

section
/-! Proofs for spec/44_index_mem.md. The 12-bit address only widens on its way into the 16-bit `I`, so it arrives there
unchanged as a number (R180). -/

namespace Sys2Proof.Machine

/-- R180: the load completes with `NNN`, unchanged as a number, in `I`. -/
theorem execLdI_next (s : State) (nnn : Addr) :
    ∃ t, exec (.ldI nnn) s = .next t ∧ t.index.toNat = nnn.toNat ∧ ChangesOnly s t [.index] :=
  ⟨s.setIndex (nnn.setWidth 16), rfl, BitVec.toNat_setWidth_of_le (by decide), s.changesOnly_setIndex _⟩

/-- Settles O42: family 0xA is decoded whole, and the load is one write of `I`. -/
theorem loadIndex : Obligations.LoadIndex :=
  ⟨fun _ => decodeWord_familyA, execLdI_next⟩

end Sys2Proof.Machine
end

section
/-! Proofs for spec/45_rand_timer_key.md. FX07 and FX18 complete with one write; their cycle ends in the tick of what that
write left (R191, R193). -/

namespace Sys2Proof.Machine

variable {s u : State} {i : Instr}

/-- The cycle of an instruction that completes is its execute step and then the tick (R121, R127). -/
theorem RunsNow.step_eq_tick (h : RunsNow s i) (hexec : exec i s.sampleInputs.advance = .next u)
    (hok : u.mode ≠ .faulted) : step s = .next u.tick := by
  obtain ⟨hmode, hpc, rfl⟩ := h
  rw [step_of_exec hmode hpc hexec, u.endCycle_of_not_faulted hok]

/-- An instruction that keeps the mode completes in the Running cycle that executes it. -/
theorem RunsNow.not_faulted_of_mode_eq (h : RunsNow s i) (hkept : u.mode = s.mode) : u.mode ≠ .faulted := by
  obtain ⟨hmode, -, -⟩ := h
  simp [hkept, hmode]

/-- Settles O49: the byte written is `DT` as the cycle found it, and the tick that follows keeps the registers. -/
theorem readDelayTimer : Obligations.ReadDelayTimer := by
  refine ⟨fun w hop hnn => ?decode, fun s _ => exec_next_of_setV (· = s.dt) rfl rfl, fun s x hrun => ?cycle⟩
  case decode => simp [decodeWord_familyF hop, decodeF, hnn]
  case cycle =>
    have hstep : step s = .next (s.sampleInputs.advance.setV x s.dt).tick :=
      hrun.step_eq_tick rfl (hrun.not_faulted_of_mode_eq rfl)
    exact ⟨_, hstep, by simp, by simp⟩

/-- Settles O51: the tick acts on the `ST` that the instruction wrote and on the `DT` that the cycle began with. -/
theorem setSoundTimer : Obligations.SetSoundTimer := by
  refine ⟨fun w hop hnn => ?decode, fun s x => ⟨s.setSt (s.getV x), rfl, rfl, s.changesOnly_setSt _⟩,
    fun s x hrun => ?cycle⟩
  case decode => simp [decodeWord_familyF hop, decodeF, hnn]
  case cycle =>
    have hstep : step s = .next (s.sampleInputs.advance.setSt (s.getV x)).tick :=
      hrun.step_eq_tick rfl (hrun.not_faulted_of_mode_eq rfl)
    exact ⟨_, hstep, by simp, by simp⟩

end Sys2Proof.Machine
end

section
/-! Proofs for spec/60_exceptions.md. Each instruction that can fault is said once on both sides of its check: it raises
the cause of the fault table, or it completes with the effect of its own rule and leaves `mode` and `fault_cause` alone
(R210, R212, R214, R215). -/

namespace Sys2Proof.Machine

variable {s t u : State} {i : Instr} {c : Fault}

theorem next_unique (h : exec i s = .next t) (h' : exec i s = .next u) : u = t :=
  Host.Outcome.next.inj (h'.symm.trans h)

/-! ### Under a condition of the table of R210: the raise of its cause -/

/-- R66: the range check fails where the last of its bytes lies above 4095. -/
theorem not_inMemory {w : Word} {n : Nat} (hn : 0 < n) (h : 4095 < w.toNat + n - 1) : ¬ inMemory w n = true := by
  rw [inMemory_iff]; omega

/-- R210, R212: where the table gives a cause, the execute step is the raise of that cause. -/
theorem exec_of_faultIn (h : faultIn s i = some c) : exec i s = .next (s.raise c) := by
  cases i with
  | ret =>
    obtain ⟨hsp, ⟨⟩⟩ := Option.ite_none_right_eq_some.1 h
    rw [exec, execRet, s.pop_of_empty hsp]
  | call nnn =>
    obtain ⟨hsp, ⟨⟩⟩ := Option.ite_none_right_eq_some.1 h
    rw [exec, execCall, s.push_of_full _ hsp]
  | skp x | sknp x =>
    obtain ⟨hx, ⟨⟩⟩ := Option.ite_none_right_eq_some.1 h
    exact if_pos hx
  | drw x y n =>
    obtain ⟨⟨hn, hx⟩, ⟨⟩⟩ := Option.ite_none_right_eq_some.1 h
    exact if_neg (not_inMemory hn hx)
  | ldB x =>
    obtain ⟨hx, ⟨⟩⟩ := Option.ite_none_right_eq_some.1 h
    exact if_neg (not_inMemory (n := 3) (by omega) hx)
  | storeRegs x | loadRegs x =>
    obtain ⟨hx, ⟨⟩⟩ := Option.ite_none_right_eq_some.1 h
    exact if_neg (not_inMemory (n := x.val + 1) (by omega) hx)
  | _ => cases h

/-- R214: the state an execute-stage fault leaves. -/
theorem exec_raises_of_faultIn (h : faultIn s i = some c) :
    ∃ t, exec i s = .next t ∧ t.mode = .faulted ∧ t.faultCause = some c ∧ ChangesOnly s t [.mode, .faultCause] :=
  ⟨s.raise c, exec_of_faultIn h, rfl, rfl, s.changesOnly_raise c⟩

/-- R214, R215: over the whole cycle the fault leaves the inputs taken and the advanced `pc`, and does not tick. -/
theorem step_of_faultIn (hmode : s.mode = .running) (hpc : s.pc.toNat ≤ 4094)
    (h : faultIn s (decodeWord s.fetchWord) = some c) : step s = .next (s.sampleInputs.advance.raise c) := by
  have hexec := exec_of_faultIn (s := s.sampleInputs.advance) h
  rw [step_of_exec hmode hpc hexec, State.endCycle_of_faulted _ rfl]

theorem RunsNow.step_raises_of_faultIn (hrun : RunsNow s i) (h : faultIn s i = some c) :
    ∃ t, step s = .next t ∧ t.pc = s.pc + 2 ∧ t.mode = .faulted ∧ t.faultCause = some c ∧
      ChangesOnly s t (.pc :: .mode :: .faultCause :: hostParts) := by
  obtain ⟨hmode, hpc, rfl⟩ := hrun
  have hframe := s.changesOnly_sampleInputs_advance.append (State.changesOnly_raise _ c)
  exact ⟨_, step_of_faultIn hmode hpc h, rfl, rfl, rfl, hframe.mono (by simp [hostParts])⟩

/-! ### Outside the table: the rule's own effect -/

theorem execSkp_of_le {x : Reg} (h : (s.getV x).toNat ≤ 15) :
    exec (.skp x) s = .next (s.skipIf (s.keyHeld (s.getV x).toNat)) :=
  if_neg (by omega)

theorem execSknp_of_le {x : Reg} (h : (s.getV x).toNat ≤ 15) :
    exec (.sknp x) s = .next (s.skipIf (!s.keyHeld (s.getV x).toNat)) :=
  if_neg (by omega)

theorem execDrw_of_le {x y : Reg} {n : Nibble} (h : n.toNat = 0 ∨ s.index.toNat + n.toNat - 1 ≤ 4095) :
    exec (.drw x y n) s = .next ((s.setDisp (s.drawn x y n).disp).setFlag (s.drawn x y n).collision) :=
  if_pos ((inMemory_iff _ _).2 (by omega))

theorem execLdB_of_le {x : Reg} (h : s.index.toNat + 2 ≤ 4095) :
    exec (.ldB x) s = .next (s.writeBytes s.index.toNat (decimalDigits (s.getV x))) :=
  if_pos ((inMemory_iff _ _).2 (by omega))

theorem execStoreRegs_of_le {x : Reg} (h : s.index.toNat + x.val ≤ 4095) :
    exec (.storeRegs x) s = .next ((s.writeBytes s.index.toNat (s.registersTo x)).setIndex (s.indexAfter x)) :=
  if_pos ((inMemory_iff _ _).2 (by omega))

theorem execLoadRegs_of_le {x : Reg} (h : s.index.toNat + x.val ≤ 4095) :
    exec (.loadRegs x) s = .next { s with v := s.registersLoaded x, index := s.indexAfter x } :=
  if_pos ((inMemory_iff _ _).2 (by omega))

/-- R212: an instruction that does not fault leaves the fault entry alone, and the mode unless it is an FX0A. -/
theorem exec_keeps_mode_of_no_fault (hf : faultIn s i = none) (h : exec i s = .next t) :
    t.faultCause = s.faultCause ∧ ((∀ x, i ≠ .ldK x) → t.mode = s.mode) := by
  cases i with
  | ret =>
    obtain ⟨u, hu, -, -, hframe⟩ := execRet_of_pos (s := s) (by simpa [faultIn, Nat.pos_iff_ne_zero] using hf)
    obtain rfl := next_unique h hu
    exact ⟨hframe .faultCause (by simp), fun _ => hframe .mode (by simp)⟩
  | call nnn =>
    have hsp : s.sp.val ≠ 16 := by simpa [faultIn] using hf
    obtain ⟨u, hu, -, -, -, hframe⟩ := execCall_of_lt (s := s) nnn (by omega)
    obtain rfl := next_unique h hu
    exact ⟨hframe .faultCause (by simp), fun _ => hframe .mode (by simp)⟩
  | skp x =>
    rw [execSkp_of_le (by simpa [faultIn] using hf)] at h
    cases h; exact ⟨rfl, fun _ => rfl⟩
  | sknp x =>
    rw [execSknp_of_le (by simpa [faultIn] using hf)] at h
    cases h; exact ⟨rfl, fun _ => rfl⟩
  | drw x y n =>
    have hin : 0 < n.toNat → s.index.toNat + n.toNat - 1 ≤ 4095 := by simpa [faultIn] using hf
    rw [execDrw_of_le (by omega)] at h
    cases h; exact ⟨rfl, fun _ => rfl⟩
  | ldB x =>
    rw [execLdB_of_le (by simpa [faultIn] using hf)] at h
    cases h; simp
  | storeRegs x =>
    rw [execStoreRegs_of_le (by simpa [faultIn] using hf)] at h
    cases h; simp
  | loadRegs x =>
    rw [execLoadRegs_of_le (by simpa [faultIn] using hf)] at h
    cases h; simp
  | ldK x => cases h; exact ⟨rfl, fun hne => absurd rfl (hne x)⟩
  | _ =>
    have hframe := changesOnly_of_exec h
    exact ⟨hframe .faultCause (by simp [mayWrite]), fun _ => hframe .mode (by simp [mayWrite])⟩

/-- R30: what an execute step does to the mode. -/
theorem exec_mode_cases (h : exec i s = .next t) :
    (∃ x, i = .ldK x ∧ t.mode = .awaitingKey) ∨ ((∀ x, i ≠ .ldK x) ∧ (t.mode = s.mode ∨ t.mode = .faulted)) := by
  by_cases hk : ∃ x, i = .ldK x
  · obtain ⟨x, rfl⟩ := hk
    cases h; exact .inl ⟨x, rfl, rfl⟩
  · have hne : ∀ x, i ≠ .ldK x := by simpa using hk
    refine .inr ⟨hne, ?_⟩
    cases hf : faultIn s i with
    | some c =>
      obtain rfl := next_unique h (exec_of_faultIn hf)
      exact .inr rfl
    | none => exact .inl ((exec_keeps_mode_of_no_fault hf h).2 hne)

/-- Settles O18: the raise is all that a faulting execute step does, and a completing one keeps the fault entry and ends
Running or parked. -/
theorem executeFaultsExactAndPrecise : Obligations.ExecuteFaultsExactAndPrecise := by
  refine fun s hmode hpc => ⟨fun c hf => step_of_faultIn hmode hpc hf, fun hf => ?_⟩
  obtain ⟨u, hexec, -⟩ := exec_answersNext s.sampleInputs.advance (decodeWord s.fetchWord)
  obtain ⟨hcause, hkept⟩ := exec_keeps_mode_of_no_fault (s := s.sampleInputs.advance) hf hexec
  have hend : u.endCycle.faultCause = u.faultCause := u.changesOnly_endCycle .faultCause (by simp)
  refine ⟨u.endCycle, step_of_exec hmode hpc hexec, ?_, hend.trans hcause⟩
  rcases exec_mode_cases hexec with ⟨x, -, hpark⟩ | ⟨hne, -⟩
  · simp [hpark]
  · simp [hkept hne, hmode]

end Sys2Proof.Machine
end

section
/-! Proofs for spec/10_state.md: the invariant of a run (R23, R32, R140), kept by each piece of a cycle, and by the
execute step part by part. -/

namespace Sys2Proof.Machine

variable {s t u : State} {i : Instr}

/-! ### The invariant, operation by operation -/

theorem State.Inv.faultCause_eq_none (h : s.Inv) (hmode : s.mode ≠ .faulted) : s.faultCause = none := by
  obtain ⟨-, -, -, hcause⟩ := h
  by_contra hne
  exact hmode (hcause.2 hne)

theorem State.Inv.raise (h : s.Inv) (c : Fault) : (s.raise c).Inv := by
  obtain ⟨hpc, hstack, hmem, -⟩ := h
  exact ⟨hpc, hstack, hmem, by simp⟩

/-- The fetch of a Running cycle reads at most at 4094, so the advanced `pc` is at most 4096 (R23, R123). -/
theorem State.advance_pc_le (hpc : s.pc.toNat ≤ 4094) : s.advance.pc.toNat ≤ 4096 := by
  simp; omega

theorem State.Inv.sampleInputs_advance (h : s.Inv) (hpc : s.pc.toNat ≤ 4094) : s.sampleInputs.advance.Inv := by
  obtain ⟨-, hstack, hmem, hcause⟩ := h
  exact ⟨(State.advance_pc_le (s := s.sampleInputs) hpc).trans (by decide), hstack, hmem, hcause⟩

theorem State.Inv.endCycle (h : s.Inv) : s.endCycle.Inv := by
  by_cases hmode : s.mode = .faulted
  · rwa [s.endCycle_of_faulted hmode]
  · rwa [s.endCycle_of_not_faulted hmode]

/-- R128: what the key wait of an AwaitingKey cycle does, by whether a key is held. -/
theorem State.awaitKey_cases (s : State) :
    (s.key = 0 ∧ s.awaitKey = s) ∨
    (s.key ≠ 0 ∧ ∃ k : Reg,
      s.awaitKey = { s with v := s.v.set s.waitReg (BitVec.ofNat 8 k.val), mode := .running }) := by
  cases h : lowestKey s.key with
  | none =>
    have hkey := (lowestKey_eq_none _).1 h
    exact .inl ⟨hkey, s.awaitKey_of_none hkey⟩
  | some k =>
    refine .inr ⟨fun hkey => ?_, k, s.awaitKey_of_some k h⟩
    rw [(lowestKey_eq_none _).2 hkey] at h
    cases h

theorem State.Inv.awaitKey (h : s.Inv) (hmode : s.mode = .awaitingKey) : s.awaitKey.Inv := by
  have hnone := h.faultCause_eq_none (by simp [hmode])
  obtain ⟨hpc, hstack, hmem, -⟩ := h
  rcases s.awaitKey_cases with ⟨-, heq⟩ | ⟨-, k, heq⟩ <;> rw [heq]
  · exact ⟨hpc, hstack, hmem, by simp [hmode, hnone]⟩
  · exact ⟨hpc, hstack, hmem, by simp [hnone]⟩

/-! ### The invariant through the execute step -/

/-- R142: only a call writes a stack slot. -/
theorem stack_mem_mayWrite_iff (c : Config) (i : Instr) : .stack ∈ mayWrite c i ↔ ∃ nnn, i = .call nnn := by
  cases i with
  | storeRegs x => simp [mem_mayWrite_storeRegs]
  | loadRegs x => simp [mem_mayWrite_loadRegs]
  | _ => simp [mayWrite]

theorem sp_mem_mayWrite_iff (c : Config) (i : Instr) : .sp ∈ mayWrite c i ↔ i = .ret ∨ ∃ nnn, i = .call nnn := by
  cases i with
  | storeRegs x => simp [mem_mayWrite_storeRegs]
  | loadRegs x => simp [mem_mayWrite_loadRegs]
  | _ => simp [mayWrite]

theorem config_not_mem_mayWrite (c : Config) (i : Instr) : .config ∉ mayWrite c i := by
  cases i with
  | storeRegs x => simp [mem_mayWrite_storeRegs]
  | loadRegs x => simp [mem_mayWrite_loadRegs]
  | _ => simp [mayWrite]

theorem State.skipIf_pc_le (s : State) (b : Bool) (hpc : s.pc.toNat ≤ 4096) : (s.skipIf b).pc.toNat ≤ 0x10FE := by
  cases b <;> simp <;> omega

/-- R143: BNNN's sum of at most 0xFFF and 0xFF does not wrap. -/
theorem jumpTarget_toNat (nnn : Addr) (b : Byte) :
    (nnn.setWidth 16 + b.setWidth 16 : Word).toNat = nnn.toNat + b.toNat := by
  simp; omega

/-- R23: from an advanced `pc` of at most 4096 and live return addresses of at most 4096, no instruction gets beyond
0xFFF + 0xFF, the largest target of BNNN. -/
theorem exec_pc_le (hpc : s.pc.toNat ≤ 4096) (hstack : ∀ k : Fin 16, k.val < s.sp.val → s.stack[k].toNat ≤ 4096)
    (h : exec i s = .next t) : t.pc.toNat ≤ 0x10FE := by
  have hkept : t.pc = s.pc → t.pc.toNat ≤ 0x10FE := by intro he; rw [he]; omega
  cases hf : faultIn s i with
  | some c =>
    obtain rfl := next_unique h (exec_of_faultIn hf)
    exact hkept rfl
  | none =>
    cases i with
    | jp nnn =>
      obtain ⟨u, hu, hto, -⟩ := execJp_next s nnn
      obtain rfl := next_unique h hu
      omega
    | jpV0 nnn =>
      cases h
      rw [State.setPc_pc, jumpTarget_toNat]; omega
    | ret =>
      have hsp : s.sp.val ≠ 0 := by simpa [faultIn] using hf
      obtain ⟨u, hu, -, hto, -⟩ := execRet_of_pos (s := s) (by omega)
      obtain rfl := next_unique h hu
      rw [hto ⟨s.sp.val - 1, by omega⟩ rfl]
      exact (hstack _ (by simp; omega)).trans (by decide)
    | call nnn =>
      have hsp : s.sp.val ≠ 16 := by simpa [faultIn] using hf
      obtain ⟨u, hu, -, hto, -⟩ := execCall_of_lt (s := s) nnn (by omega)
      obtain rfl := next_unique h hu
      omega
    | seImm x nn | sneImm x nn | seReg x y | sneReg x y => cases h; exact s.skipIf_pc_le _ hpc
    | skp x =>
      rw [execSkp_of_le (by simpa [faultIn] using hf)] at h
      cases h; exact s.skipIf_pc_le _ hpc
    | sknp x =>
      rw [execSknp_of_le (by simpa [faultIn] using hf)] at h
      cases h; exact s.skipIf_pc_le _ hpc
    | storeRegs x => exact hkept (changesOnly_of_exec h .pc (by simp [mem_mayWrite_storeRegs]))
    | loadRegs x => exact hkept (changesOnly_of_exec h .pc (by simp [mem_mayWrite_loadRegs]))
    | _ => exact hkept (changesOnly_of_exec h .pc (by simp [mayWrite]))

/-- R140, R142: a call pushes an address of at most 4096, a return only gives one up. -/
theorem exec_returnAddresses_le (hpc : s.pc.toNat ≤ 4096)
    (hstack : ∀ k : Fin 16, k.val < s.sp.val → s.stack[k].toNat ≤ 4096) (h : exec i s = .next t) :
    ∀ k : Fin 16, k.val < t.sp.val → t.stack[k].toNat ≤ 4096 := by
  intro k hk
  cases hf : faultIn s i with
  | some c =>
    obtain rfl := next_unique h (exec_of_faultIn hf)
    exact hstack k hk
  | none =>
    by_cases hcall : ∃ nnn, i = .call nnn
    · obtain ⟨nnn, rfl⟩ := hcall
      have hsp : s.sp.val ≠ 16 := by simpa [faultIn] using hf
      obtain ⟨u, hu, htop, -, hslot, -⟩ := execCall_of_lt (s := s) nnn (by omega)
      obtain rfl := next_unique h hu
      rw [hslot]
      split
      · exact hpc
      · exact hstack k (by omega)
    · have hslots : t.stack = s.stack := changesOnly_of_exec h .stack (by rwa [stack_mem_mayWrite_iff])
      rw [hslots]
      by_cases hret : i = .ret
      · subst hret
        have hsp : s.sp.val ≠ 0 := by simpa [faultIn] using hf
        obtain ⟨u, hu, htop, -⟩ := execRet_of_pos (s := s) (by omega)
        obtain rfl := next_unique h hu
        exact hstack k (by omega)
      · have htop : t.sp = s.sp := changesOnly_of_exec h .sp (by rw [sp_mem_mayWrite_iff]; simp [hret, hcall])
        exact hstack k (by rwa [← htop])

theorem eq_or_eq_of_ite_next {p : Prop} [Decidable p] {v : State}
    (h : (if p then .next u else .next v : Result) = .next t) : t = u ∨ t = v := by
  split at h <;> cases h
  · exact .inl rfl
  · exact .inr rfl

/-- All that an execute step can do to the list of memory cells: store a run of bytes, mostly of none. -/
theorem exec_mem (h : exec i s = .next t) : ∃ a bs, t.mem = (s.writeBytes a bs).mem := by
  have hnone : t.mem = s.mem → ∃ a bs, t.mem = (s.writeBytes a bs).mem := fun he => ⟨0, [], he⟩
  cases i with
  | ret =>
    rcases Nat.eq_zero_or_pos s.sp.val with hsp | hsp
    · rw [exec, execRet, s.pop_of_empty hsp] at h; cases h; exact hnone rfl
    · rw [exec, execRet, s.pop_of_pos hsp] at h; cases h; exact hnone rfl
  | call nnn =>
    rcases Nat.lt_or_eq_of_le (Nat.le_of_lt_succ s.sp.isLt) with hsp | hsp
    · rw [exec, execCall, s.push_of_lt _ hsp] at h; cases h; exact hnone rfl
    · rw [exec, execCall, s.push_of_full _ hsp] at h; cases h; exact hnone rfl
  | ldB x | storeRegs x =>
    obtain rfl | rfl := eq_or_eq_of_ite_next h
    · exact ⟨_, _, rfl⟩
    · exact hnone rfl
  | skp x | sknp x | drw x y n | loadRegs x => obtain rfl | rfl := eq_or_eq_of_ite_next h <;> exact hnone rfl
  | _ => cases h; exact hnone rfl

/-- R32: a cause is recorded by exactly the execute steps that fault. -/
theorem exec_faulted_iff (hmode : s.mode ≠ .faulted) (hnone : s.faultCause = none) (h : exec i s = .next t) :
    t.mode = .faulted ↔ t.faultCause ≠ none := by
  cases hf : faultIn s i with
  | some c =>
    obtain rfl := next_unique h (exec_of_faultIn hf)
    simp
  | none =>
    obtain ⟨hcause, hkept⟩ := exec_keeps_mode_of_no_fault hf h
    rcases exec_mode_cases h with ⟨x, -, hpark⟩ | ⟨hne, -⟩
    · simp [hpark, hcause, hnone]
    · simp [hkept hne, hmode, hcause, hnone]

theorem State.Inv.of_exec (hinv : s.Inv) (hpc : s.pc.toNat ≤ 4096) (hmode : s.mode ≠ .faulted)
    (h : exec i s = .next t) : t.Inv := by
  have hnone := hinv.faultCause_eq_none hmode
  obtain ⟨-, hstack, hmem, -⟩ := hinv
  have hconfig : t.config = s.config := changesOnly_of_exec h .config (config_not_mem_mayWrite _ _)
  obtain ⟨a, bs, hbytes⟩ := exec_mem h
  refine ⟨exec_pc_le hpc hstack h, exec_returnAddresses_le hpc hstack h, ?_, exec_faulted_iff hmode hnone h⟩
  rw [hconfig, hbytes]
  exact s.wf_writeBytes a bs hmem

/-- R34: no step changes the parameters. -/
theorem step_config (h : step s = .next t) : t.config = s.config := by
  obtain ⟨-, rfl⟩ | ⟨-, rfl⟩ | ⟨-, -, rfl⟩ | ⟨-, -, u, hexec, rfl⟩ := step_cases s t h
  · rfl
  · exact State.changesOnly_awaitKey _ .config (by simp)
  · rfl
  · have hend : u.endCycle.config = u.config := u.changesOnly_endCycle .config (by simp)
    exact hend.trans (changesOnly_of_exec hexec .config (config_not_mem_mayWrite _ _))

/-- Settles O20, by what a step can do: each piece of a cycle keeps the invariant, the execute step from an advanced
`pc` of at most 4096. -/
theorem stepKeepsInvariant : Obligations.StepKeepsInvariant := by
  refine fun s t hinv h => ⟨?_, step_config h⟩
  obtain ⟨-, rfl⟩ | ⟨hmode, rfl⟩ | ⟨-, -, rfl⟩ | ⟨hmode, hpc, u, hexec, rfl⟩ := step_cases s t h
  · exact hinv
  · exact State.Inv.awaitKey (s := s.sampleInputs) hinv hmode
  · exact State.Inv.raise (s := s.sampleInputs) hinv _
  · have hadvanced : s.sampleInputs.advance.pc.toNat ≤ 4096 := State.advance_pc_le (s := s.sampleInputs) hpc
    have hrunning : s.sampleInputs.advance.mode ≠ .faulted := by simp [hmode]
    exact ((hinv.sampleInputs_advance hpc).of_exec hadvanced hrunning hexec).endCycle

/-- Settles O21: `pc` starts at 0x200, the stack and the list of memory cells start empty, and no cause is recorded. -/
theorem resetMeetsInvariant : Obligations.ResetMeetsInvariant := by
  intro c
  refine ⟨?_, fun k hk => absurd hk (Nat.not_lt_zero _), Memory.wf_reset c, ?_⟩ <;> simp [State.resetWith]

end Sys2Proof.Machine
end

section
/-! Proofs for spec/10_state.md and spec/40_cycle.md: the registers an instruction writes (R21), the inputs of a cycle
(R43, R44, R120), and the cycles that execute nothing (R30, R123, R128, R129). -/

namespace Sys2Proof.Machine

variable {s t : State} {i : Instr} {xs ys : List Reg}

/-! ### Registers (R21) -/

theorem RegistersChangeOnly.mono (h : RegistersChangeOnly s t xs) (hsub : xs ⊆ ys) : RegistersChangeOnly s t ys :=
  fun k hk => h k fun hmem => hk (hsub hmem)

theorem registersChangeOnly_of_v_eq (h : t.v = s.v) (xs : List Reg) : RegistersChangeOnly s t xs :=
  fun k _ => by simp only [State.getV, h]

/-- R185: the registers after FX65 as reads. -/
theorem getV_of_v_eq_registersLoaded {x : Reg} (h : t.v = s.registersLoaded x) (k : Reg) :
    t.getV k = if k ≤ x then s.readByte (s.index.toNat + k.val) else s.getV k := by
  rw [← s.registersLoaded_getElem x k, ← h]; rfl

theorem exec_registersChangeOnly (h : exec i s = .next t) : RegistersChangeOnly s t (destinations i) := by
  cases i with
  | ldImm x nn | addImm x nn | ldReg x y | orReg x y | andReg x y | xorReg x y | rnd x nn | ldVDt x =>
    cases h; exact s.registersChangeOnly_setV x _
  | addReg x y | subReg x y | subnReg x y => cases h; exact s.registersChangeOnly_setV_setV x 15 _ _
  | shr x y | shl x y =>
    cases h; exact (s.registersChangeOnly_setV_setV 15 x _ _).mono (by simp [destinations])
  | drw x y n =>
    obtain rfl | rfl := eq_or_eq_of_ite_next h
    · exact State.registersChangeOnly_setV (s.setDisp _) 15 _
    · exact registersChangeOnly_of_v_eq rfl _
  | loadRegs x =>
    obtain rfl | rfl := eq_or_eq_of_ite_next h
    · intro k hk
      have hlt : ¬ k ≤ x := by simpa [destinations] using hk
      rw [getV_of_v_eq_registersLoaded rfl, if_neg hlt]
    · exact registersChangeOnly_of_v_eq rfl _
  | storeRegs x => exact registersChangeOnly_of_v_eq (changesOnly_of_exec h .v (by simp [mem_mayWrite_storeRegs])) _
  | _ => exact registersChangeOnly_of_v_eq (changesOnly_of_exec h .v (by simp [mayWrite])) _

/-- Settles O19: the frame of each arm of `exec`, and the registers its writes name. -/
theorem onlyListedInstructionsWrite : Obligations.OnlyListedInstructionsWrite :=
  fun _ _ _ h => ⟨changesOnly_of_exec h, exec_registersChangeOnly h⟩

/-! ### The inputs of a cycle (R43, R44, R120) -/

theorem sampleInputs_of_inputs {i : HostInput} {rest : List HostInput} (h : s.inputs = i :: rest) :
    s.sampleInputs = { s with key := i.keypad, rand := i.rand, inputs := rest } := by
  simp [State.sampleInputs, State.cycleInput, h]

/-- Settles O8: the cycle samples the head of the queue and ends with the inputs it sampled. -/
theorem cycleTakesSuppliedInputs : Obligations.CycleTakesSuppliedInputs := by
  intro s i rest hqueue
  have hsample := sampleInputs_of_inputs hqueue
  refine ⟨fun hmode => ?_, hsample⟩
  obtain ⟨t, ht, hkept⟩ := step_next_keeps_sampled s hmode
  rw [hsample] at hkept
  exact ⟨t, ht, hkept .key (by decide), hkept .rand (by decide), hkept .inputs (by decide), hkept .draws (by decide)⟩

/-! ### Cycles that execute nothing (R123, R128, R129) -/

/-- Settles O11: the fetch raises the fault on the state whose inputs are sampled, before it advances `pc`. -/
theorem fetchOutOfRangeFaults : Obligations.FetchOutOfRangeFaults := by
  intro s hmode hpc
  have hframe := s.changesOnly_sampleInputs.append (s.sampleInputs.changesOnly_raise .pcOutOfRange)
  exact ⟨_, (step_of_running s hmode).trans (runningCycle_of_no_fetch s.sampleInputs hpc), rfl, rfl,
    hframe.mono (by simp [hostParts])⟩

/-- Settles O12: with no key held the cycle does no more than sample its inputs. -/
theorem parkedCycleChangesNothing : Obligations.ParkedCycleChangesNothing := by
  intro s hmode hkey
  refine ⟨s.sampleInputs, ?_, s.changesOnly_sampleInputs⟩
  rw [step_of_awaitingKey s hmode, s.sampleInputs.awaitKey_of_none hkey]

/-- Settles O13: the key wait finds the least key held, and writes its number, of four bits, to a register. -/
theorem wakingCycleWritesLeastKey : Obligations.WakingCycleWritesLeastKey := by
  intro s k hmode hheld hleast
  have hlowest := (lowestKey_eq_some _ k).2 ⟨hheld, hleast⟩
  have hwake := s.sampleInputs.awaitKey_of_some k hlowest
  have hframe := s.changesOnly_sampleInputs.append s.sampleInputs.changesOnly_awaitKey
  rw [hwake] at hframe
  refine ⟨_, (step_of_awaitingKey s hmode).trans (congrArg _ hwake), ?_, rfl,
    s.registersChangeOnly_setV s.waitReg (BitVec.ofNat 8 k.val), hframe.mono (by simp [hostParts])⟩
  have hbyte : (BitVec.ofNat 8 k.val).toNat = k.val := by simp; omega
  exact (congrArg BitVec.toNat (s.getV_setV_self s.waitReg _)).trans hbyte

/-- Settles O14: such a cycle answers the state it began in. -/
theorem faultedCycleChangesNothing : Obligations.FaultedCycleChangesNothing := step_of_faulted

/-! ### The transitions of the mode (R30) -/

theorem State.awaitKey_mode (hmode : s.mode = .awaitingKey) :
    s.awaitKey.mode ≠ .faulted ∧ (s.awaitKey.mode = .running ↔ s.key ≠ 0) := by
  rcases s.awaitKey_cases with ⟨hkey, heq⟩ | ⟨hkey, k, heq⟩ <;> rw [heq]
  · simp [hkey, hmode]
  · exact ⟨by simp, iff_of_true rfl hkey⟩

theorem exec_awaitingKey_iff (hmode : s.mode = .running) (h : exec i s = .next t) :
    t.mode = .awaitingKey ↔ ∃ x, i = .ldK x := by
  rcases exec_mode_cases h with ⟨x, rfl, hpark⟩ | ⟨hne, hkept | hfault⟩
  · simp [hpark]
  · simp [hkept, hmode, hne]
  · simp [hfault, hne]

/-- Settles O17, by what a step can do: only the key wait of an AwaitingKey cycle and the execute step of a Running one
decide the mode. -/
theorem modeTransitions : Obligations.ModeTransitions := by
  intro s t h
  obtain ⟨hmode, rfl⟩ | ⟨hmode, rfl⟩ | ⟨hmode, hpc, rfl⟩ | ⟨hmode, hpc, u, hexec, rfl⟩ := step_cases s t h
  · simp [hmode]
  · exact ⟨by simp [hmode], fun _ => State.awaitKey_mode (s := s.sampleInputs) hmode, by simp [hmode]⟩
  · exact ⟨by simp [hmode], by simp [hmode], fun _ => by simp; omega⟩
  · refine ⟨by simp [hmode], by simp [hmode], fun _ => ?_⟩
    rw [State.endCycle_mode, exec_awaitingKey_iff (s := s.sampleInputs.advance) hmode hexec]
    simp [hpc]

end Sys2Proof.Machine
end

section
/-! Proofs for spec/30_encoding.md: decoding to a given instruction is being its word (R93, R95), and the unknown words
family by family (R101). -/

namespace Sys2Proof

variable {w : Word}

/-- R93, R95: a word is decoded to a well-formed instruction exactly if it is the instruction's word. -/
theorem decodeWord_eq_iff {i : Instr} (hwf : i.WellFormed) : decodeWord w = i ↔ w = encode i :=
  ⟨fun h => by rw [← h, encode_decodeWord], fun h => by rw [h, decodeOfEncode i hwf]⟩

/-! ### What each selecting family leaves unknown (R97, R98) -/

theorem decode0_eq_unknown_iff (hop : opField w = 0x0) :
    decode0 w = .unknown w ↔ w ≠ 0x00E0 ∧ w ≠ 0x00EE := by
  have hcls : decode0 w = .cls ↔ w = 0x00E0 := decodeWord_family0 hop ▸ decodeWord_eq_iff rfl
  have hret : decode0 w = .ret ↔ w = 0x00EE := decodeWord_family0 hop ▸ decodeWord_eq_iff rfl
  rw [Ne, Ne, ← hcls, ← hret]
  unfold decode0
  split <;> simp

theorem decode5_eq_ite (w : Word) :
    decode5 w = if nField w = 0x0 then .seReg (xField w) (yField w) else .unknown w := by
  unfold decode5
  split
  case h_1 h => exact (if_pos h).symm
  case h_2 h => exact (if_neg h).symm

theorem decode9_eq_ite (w : Word) :
    decode9 w = if nField w = 0x0 then .sneReg (xField w) (yField w) else .unknown w := by
  unfold decode9
  split
  case h_1 h => exact (if_pos h).symm
  case h_2 h => exact (if_neg h).symm

theorem decode8_eq_unknown_iff :
    decode8 w = .unknown w ↔ nField w ∈ ([0x8, 0x9, 0xA, 0xB, 0xC, 0xD, 0xF] : List Nibble) := by
  unfold decode8
  rcases nibble_cases (nField w) with h | h | h | h | h | h | h | h | h | h | h | h | h | h | h | h <;> simp [h]

theorem decodeE_eq_unknown_iff : decodeE w = .unknown w ↔ nnField w ∉ ([0x9E, 0xA1] : List Byte) := by
  unfold decodeE
  split <;> simp_all

theorem decodeF_eq_unknown_iff : decodeF w = .unknown w ↔
    nnField w ∉ ([0x07, 0x0A, 0x15, 0x18, 0x1E, 0x29, 0x33, 0x55, 0x65] : List Byte) := by
  unfold decodeF
  split <;> simp_all

/-- Settles O5, by the top nibble: a family of one row has no unknown word, the others are said above. -/
theorem unknownWordsByFamily : Obligations.UnknownWordsByFamily := by
  intro w
  rcases nibble_cases (opField w) with h | h | h | h | h | h | h | h | h | h | h | h | h | h | h | h
  · simp [decodeWord_family0 h, decode0_eq_unknown_iff h, h]
  · simp [decodeWord_family1 h, h]
  · simp [decodeWord_family2 h, h]
  · simp [decodeWord_family3 h, h]
  · simp [decodeWord_family4 h, h]
  · simp [decodeWord_family5 h, decode5_eq_ite, h]
  · simp [decodeWord_family6 h, h]
  · simp [decodeWord_family7 h, h]
  · simp [decodeWord_family8 h, decode8_eq_unknown_iff, h]
  · simp [decodeWord_family9 h, decode9_eq_ite, h]
  · simp [decodeWord_familyA h, h]
  · simp [decodeWord_familyB h, h]
  · simp [decodeWord_familyC h, h]
  · simp [decodeWord_familyD h, h]
  · simp [decodeWord_familyE h, decodeE_eq_unknown_iff, h]
  · simp [decodeWord_familyF h, decodeF_eq_unknown_iff, h]

end Sys2Proof
end

section
/-! Proofs for spec/20_memory.md and spec/70_reset_and_hazards.md: canonical memories are equal if they read the same
(R60), the reset values (R240 to R245) and the ROM load (R247). -/

namespace Sys2Proof.Machine

/-! ### Canonical memories (R60; the model's form of memory) -/

/-- The cells of a list with strictly rising addresses are what `lookup` finds. -/
theorem Memory.lookup_eq_some_iff {m : Memory} (hrising : m.Pairwise fun e f => e.1 < f.1) (a : Nat) (b : Byte) :
    Memory.lookup m a = some b ↔ (a, b) ∈ m := by
  induction m with
  | nil => simp [Memory.lookup]
  | cons e m ih =>
    obtain ⟨k, d⟩ := e
    obtain ⟨hhead, hrest⟩ := List.pairwise_cons.1 hrising
    rw [Memory.lookup, List.mem_cons, Prod.mk.injEq]
    split
    next hk =>
      subst hk
      have hnot : (k, b) ∉ m := fun hmem => lt_irrefl k (hhead _ hmem)
      simp [hnot, eq_comm]
    next hk => rw [ih hrest]; simp [Ne.symm hk]

/-- A canonical memory lists exactly the bytes that differ from their reset contents. -/
theorem Memory.mem_iff_read {c : Config} {m : Memory} (hwf : Memory.wf c m) (e : Host.Cell) :
    e ∈ m ↔ Memory.read c m e.1 = e.2 ∧ e.2 ≠ initialByte c e.1 := by
  obtain ⟨hrising, hlisted⟩ := hwf
  rw [← Memory.lookup_eq_some_iff hrising, Memory.read]
  cases h : Memory.lookup m e.1 with
  | none => simpa using fun he => he.symm
  | some b =>
    have hb : b ≠ initialByte c e.1 := (hlisted _ ((Memory.lookup_eq_some_iff hrising _ _).1 h)).2
    simpa using fun he => he ▸ hb

/-- Settles O22: what a canonical memory reads decides its cells, and their rising addresses the order. -/
theorem equalReadsEqualMemories : Obligations.EqualReadsEqualMemories := by
  intro c m m' hwf hwf' hread
  have hirrefl : Std.Irrefl fun e f : Host.Cell => e.1 < f.1 := ⟨fun e => lt_irrefl e.1⟩
  have hantisymm : Std.Antisymm fun e f : Host.Cell => e.1 < f.1 := ⟨fun e f h h' => absurd h' (lt_asymm h)⟩
  refine List.Pairwise.eq_of_mem_iff hwf.1 hwf'.1 fun e => ?_
  rw [Memory.mem_iff_read hwf, Memory.mem_iff_read hwf', hread]

/-! ### Reset (R240 to R245) -/

theorem readByte_resetWith (c : Config) (a : Nat) : (State.resetWith c).readByte a = initialByte c a := rfl

theorem initialByte_font (c : Config) (k : Fin 80) : initialByte c (0x050 + k.val) = c.fontTable[k] := by
  have hk := k.isLt
  rw [initialByte, dif_pos (by omega)]
  simp

theorem initialByte_outside_font (c : Config) {a : Nat} (h : a < 0x050 ∨ 0x0A0 ≤ a) : initialByte c a = 0 :=
  dif_neg (by omega)

theorem resetWith_values (c : Config) :
    let s := State.resetWith c
    (∀ k, s.getV k = 0) ∧ s.index = 0 ∧ s.pc = 0x0200 ∧ s.sp = 0 ∧ (∀ k : Fin 16, s.stack[k] = 0) ∧
    s.dt = 0 ∧ s.st = 0 ∧ s.key = 0 ∧ (∀ (row : Fin 32) (col : Fin 64), s.disp[row][col] = false) ∧
    s.mode = .running ∧ s.waitReg = 0 ∧ s.faultCause = none ∧
    (∀ k : Fin 80, s.readByte (0x050 + k.val) = c.fontTable[k]) ∧
    (∀ a, a < 0x050 ∨ 0x0A0 ≤ a → s.readByte a = 0) := by
  refine ⟨fun k => ?_, rfl, rfl, rfl, fun k => ?_, rfl, rfl, rfl, fun row col => ?_, rfl, rfl, rfl,
    initialByte_font c, fun a => initialByte_outside_font c⟩
  all_goals simp [State.resetWith, State.getV]

/-- Settles O24: an unlisted byte reads as its reset contents, the font's; the 80 bytes of the standard font are
computed. -/
theorem resetLeavesTheSpecsValues : Obligations.ResetLeavesTheSpecsValues :=
  ⟨resetWith_values, rfl, rfl, rfl, rfl, by decide⟩

/-! ### The ROM load (R247) -/

/-- Settles O25: within 0x200 to 0xFFF every byte of the ROM is stored, in order; a load of another length is
refused. -/
theorem romLoadCopiesVerbatim : Obligations.RomLoadCopiesVerbatim := by
  refine ⟨fun c rom hpos hmax => ?_, fun c rom hlen => if_neg (by simp only [romMax]; omega)⟩
  have hread := fun a => (State.resetWith c).readByte_writeBytes 0x200 a rom (by omega)
  refine ⟨_, if_pos ⟨hpos, hmax⟩, fun k hk => ?_, fun a ha => ?_, State.changesOnly_writeBytes _ _ _⟩
  · rw [hread, if_pos (by omega), Nat.add_sub_cancel_left, List.getD_eq_getElem _ _ hk]
  · rw [hread, if_neg (by omega)]

end Sys2Proof.Machine
end

section
/-! Proofs for spec/41_flow.md and spec/42_skip.md: return, call and jump with offset (R140, R142, R143), the skips on
two registers and on a key (R152 to R155). What a fault leaves is said by the fault table's lemmas. -/

namespace Sys2Proof.Machine

/-! ### Control transfer -/

/-- Settles O26: the word is RET's own; a return pops, and with no return address the fault table gives the cause. -/
theorem returnPops : Obligations.ReturnPops :=
  ⟨fun _ => decodeWord_eq_iff rfl, fun _ => execRet_of_pos, fun _ hsp => exec_raises_of_faultIn (if_pos hsp),
    fun _ hrun hsp => hrun.step_raises_of_faultIn (if_pos hsp)⟩

/-- Settles O28: family 0x2 is decoded whole; a call pushes, and at 16 return addresses the fault table gives the
cause. -/
theorem callPushes : Obligations.CallPushes :=
  ⟨fun _ => decodeWord_family2, fun _ nnn => execCall_of_lt nnn,
    fun _ _ hsp => exec_raises_of_faultIn (if_pos hsp), fun _ _ hrun hsp => hrun.step_raises_of_faultIn (if_pos hsp)⟩

/-- Settles O30: the sum does not wrap, and the top nibble of `NNN` is the `X` field of the instruction's word. -/
theorem jumpWithOffset : Obligations.JumpWithOffset := by
  intro s nnn
  refine ⟨_, rfl, (jumpTarget_toNat nnn (s.jumpOffset nnn)).trans ?_, s.changesOnly_setPc _⟩
  cases h : s.config.jumpReg with
  | v0 => simp only [State.jumpOffset, h]
  | vx => simp only [State.jumpOffset, h, jumpField_eq]

/-! ### Skips -/

/-- Settles O32: in families 0x5 and 0x9 the low nibble decides between the instruction and an unknown word; the two
tests are equality and inequality of registers. -/
theorem skipOnRegisters : Obligations.SkipOnRegisters :=
  ⟨fun w hop => (decodeWord_family5 hop).trans (decode5_eq_ite w),
    fun w hop => (decodeWord_family9 hop).trans (decode9_eq_ite w),
    fun _ _ _ => ⟨exec_next_of_skipIf rfl beq_iff_eq, exec_next_of_skipIf rfl bne_iff_ne⟩⟩

/-- Settles O33: the test of EX9E is the key's bit and that of EXA1 its complement; for an index above 15 the fault
table gives the cause. -/
theorem skipOnKey : Obligations.SkipOnKey := by
  refine ⟨fun s x hx => ⟨?held, ?notHeld⟩, fun s x hx i hi => ?_⟩
  case held => exact exec_next_of_skipIf (execSkp_of_le hx) Iff.rfl
  case notHeld => exact exec_next_of_skipIf (execSknp_of_le hx) (by rw [Bool.not_eq_true', State.keyHeld])
  have hfault : faultIn s i = some .keyIndexOutOfRange := by
    rcases List.mem_pair.1 hi with rfl | rfl <;> exact if_pos hx
  exact exec_raises_of_faultIn hfault

end Sys2Proof.Machine
end

section
/-! Proofs for spec/43_alu.md. The instructions with a flag write two registers: 8XY4, 8XY5 and 8XY7 the result and then
the flag, 8XY6 and 8XYE the flag and then the result, so that with `X = 15` the later write remains (R166 to R168, R172,
R173, R175). -/

namespace Sys2Proof.Machine

variable {s : State} {i : Instr} {x : Reg} {b : Byte} {f : Bool}

/-- What an instruction completes with that writes a result and then the flag, `P` being the rule's claim about the
result and `p` its condition of the flag. -/
theorem exec_next_of_setV_setFlag (P : Byte → Prop) {p : Prop} [Decidable p]
    (hexec : exec i s = .next ((s.setV x b).setFlag f)) (hflag : f = true ↔ p) (hb : P b) :
    ∃ t, exec i s = .next t ∧ t.getV 15 = (if p then 0x01 else 0x00) ∧ (x ≠ 15 → P (t.getV x)) ∧
      RegistersChangeOnly s t [x, 15] ∧ ChangesOnly s t [.v] := by
  refine ⟨_, hexec, ?_, fun hx => ?_, s.registersChangeOnly_setV_setV x 15 b _, s.changesOnly_setV_setV x 15 b _⟩
  · simp only [State.setFlag_eq, State.getV_setV_self, hflag]
  · rw [State.setFlag_eq, State.getV_setV_ne _ hx, State.getV_setV_self]; exact hb

/-- What an instruction completes with that writes the flag and then a result, `P` being the rule's claim about the
result and `Q` its claim about the flag. -/
theorem exec_next_of_setFlag_setV (P Q : Byte → Prop) (hexec : exec i s = .next ((s.setFlag f).setV x b)) (hb : P b)
    (hflag : Q (if f then 0x01 else 0x00)) :
    ∃ t, exec i s = .next t ∧ P (t.getV x) ∧ (x ≠ 15 → Q (t.getV 15)) ∧
      RegistersChangeOnly s t [x, 15] ∧ ChangesOnly s t [.v] := by
  refine ⟨_, hexec, ?_, fun hx => ?_, (s.registersChangeOnly_setV_setV 15 x _ b).mono (by simp),
    s.changesOnly_setV_setV 15 x _ b⟩
  · rwa [State.getV_setV_self]
  · rwa [State.getV_setV_ne _ hx.symm, State.setFlag_eq, State.getV_setV_self]

/-! ### The values and flags as numbers (R166, R167, R172, R173) -/

theorem carryOut_iff (a b : Byte) : carryOut a b = true ↔ 255 < a.toNat + b.toNat := decide_eq_true_iff

theorem noBorrow_iff (a b : Byte) : noBorrow a b = true ↔ b.toNat ≤ a.toNat := decide_eq_true_iff

theorem difference8_toNat (a b : Byte) : ((difference8 a b).toNat : Int) = (a.toNat - b.toNat : Int) % 256 := by
  rw [difference8, BitVec.toNat_ofInt]
  exact Int.toNat_of_nonneg (Int.emod_nonneg _ (by decide))

theorem shiftRight_toNat (b : Byte) : (shiftRight b).toNat = b.toNat / 2 := by
  rw [shiftRight, BitVec.toNat_ushiftRight, Nat.shiftRight_eq_div_pow, Nat.pow_one]

theorem shiftLeft_toNat (b : Byte) : (shiftLeft b).toNat = (2 * b.toNat) % 256 := by
  rw [shiftLeft, BitVec.toNat_shiftLeft, Nat.shiftLeft_eq, Nat.pow_one, Nat.mul_comm]

/-- Bit `k` of a byte as the flag's value. -/
theorem flag_getLsbD_toNat (b : Byte) (k : Nat) :
    (if b.getLsbD k then 0x01 else 0x00 : Byte).toNat = b.toNat / 2 ^ k % 2 := by
  rw [BitVec.getLsbD, Nat.testBit_eq_decide_div_mod_eq]
  rcases Nat.mod_two_eq_zero_or_one (b.toNat / 2 ^ k) with h | h <;> simp [h]

/-! ### The instructions -/

/-- Settles O37: the low nibble selects the row of family 0x8; the sum modulo 256, then the carry. -/
theorem addWithCarryOut : Obligations.AddWithCarryOut := by
  refine ⟨fun w hop hn => by simp [decodeWord_family8 hop, decode8, hn], fun s x y => ?_⟩
  exact exec_next_of_setV_setFlag (fun v => v.toNat = ((s.getV x).toNat + (s.getV y).toNat) % 256) rfl
    (carryOut_iff _ _) (sum8_toNat _ _)

/-- Settles O38: the low nibble selects the row of family 0x8; the difference modulo 256, then NOT borrow. -/
theorem subtractWithNoBorrow : Obligations.SubtractWithNoBorrow := by
  refine ⟨fun w hop hn => by simp [decodeWord_family8 hop, decode8, hn], fun s x y => ?_⟩
  exact exec_next_of_setV_setFlag (fun v => (v.toNat : Int) = ((s.getV x).toNat - (s.getV y).toNat : Int) % 256) rfl
    (noBorrow_iff _ _) (difference8_toNat _ _)

/-- Settles O39: as 8XY5 with the operands exchanged. -/
theorem reverseSubtractWithNoBorrow : Obligations.ReverseSubtractWithNoBorrow := by
  refine ⟨fun w hop hn => by simp [decodeWord_family8 hop, decode8, hn], fun s x y => ?_⟩
  exact exec_next_of_setV_setFlag (fun v => (v.toNat : Int) = ((s.getV y).toNat - (s.getV x).toNat : Int) % 256) rfl
    (noBorrow_iff _ _) (difference8_toNat _ _)

/-- Settles O40: the source's bit 0 to the flag, then half the source, whichever register it is. -/
theorem shiftRightByOne : Obligations.ShiftRightByOne := fun s x y =>
  exec_next_of_setFlag_setV (fun v => v.toNat = (s.shiftSource x y).toNat / 2)
    (fun v => v.toNat = (s.shiftSource x y).toNat % 2) rfl (shiftRight_toNat _)
    ((flag_getLsbD_toNat _ 0).trans (by simp))

/-- Settles O41: the source's bit 7 to the flag, then twice the source modulo 256, whichever register it is. -/
theorem shiftLeftByOne : Obligations.ShiftLeftByOne := fun s x y =>
  exec_next_of_setFlag_setV (fun v => v.toNat = (2 * (s.shiftSource x y).toNat) % 256)
    (fun v => v.toNat = (s.shiftSource x y).toNat / 128) rfl (shiftLeft_toNat _)
    ((flag_getLsbD_toNat _ 7).trans (by have := (s.shiftSource x y).isLt; omega))

end Sys2Proof.Machine
end

section
/-! Proofs for spec/44_index_mem.md: the arithmetic of `I` (R181, R182), and FX33, FX55 and FX65 within memory (R183 to
R186). What a fault leaves is said by the fault table's lemmas. -/

namespace Sys2Proof.Machine

/-- Settles O43: one write of `I`, whose 16 bits hold the sum modulo 65536. -/
theorem addToIndex : Obligations.AddToIndex := by
  refine fun s x => ⟨_, rfl, ?_, s.changesOnly_setIndex _⟩
  rw [State.setIndex_index, BitVec.toNat_add, BitVec.toNat_setWidth_of_le (by decide)]

/-- Settles O44: one write of `I` with the glyph's address, which does not wrap. -/
theorem pointAtGlyph : Obligations.PointAtGlyph :=
  fun s _ => ⟨_, rfl, glyphAddress_toNat _, s.changesOnly_setIndex _⟩

/-! ### Runs of bytes from `I` on -/

theorem State.bytesChangeOnly_writeBytes (s : State) {a : Nat} {bs : List Byte} (h : a + bs.length ≤ 4096) :
    BytesChangeOnly s (s.writeBytes a bs) a bs.length := by
  intro m hm
  rw [s.readByte_writeBytes a m bs h, if_neg (by omega)]

/-- R61, R69: within memory, byte `k` of the run is stored at `a + k`. -/
theorem State.readByte_writeBytes_add (s : State) {a k : Nat} {bs : List Byte} (h : a + bs.length ≤ 4096)
    (hk : k < bs.length) : (s.writeBytes a bs).readByte (a + k) = bs.getD k 0 := by
  rw [s.readByte_writeBytes a (a + k) bs h, if_pos (by omega), Nat.add_sub_cancel_left]

/-- R183: each digit fits its byte. -/
theorem decimalDigits_toNat (b : Byte) :
    ((decimalDigits b).getD 0 0).toNat = b.toNat / 100 ∧ ((decimalDigits b).getD 1 0).toNat = b.toNat / 10 % 10 ∧
      ((decimalDigits b).getD 2 0).toNat = b.toNat % 10 := by
  refine ⟨?_, ?_, ?_⟩ <;> simp [decimalDigits] <;> omega

/-- Settles O45: the three digits are a run of bytes from `I` on; above 4093 the fault table gives the cause. -/
theorem storeDecimalDigits : Obligations.StoreDecimalDigits := by
  refine ⟨fun w hop hnn => by simp [decodeWord_familyF hop, decodeF, hnn], fun s x hin => ?_,
    fun s x hout => exec_raises_of_faultIn (if_pos hout)⟩
  have hrun : s.index.toNat + (decimalDigits (s.getV x)).length ≤ 4096 := by rw [decimalDigits_length]; omega
  obtain ⟨hundreds, tens, ones⟩ := decimalDigits_toNat (s.getV x)
  refine ⟨_, execLdB_of_le hin, ?_, ?_, ?_, s.bytesChangeOnly_writeBytes hrun, s.changesOnly_writeBytes _ _⟩
  · rw [← hundreds, ← s.readByte_writeBytes_add hrun (by simp [decimalDigits_length]), Nat.add_zero]
  · rw [← tens, ← s.readByte_writeBytes_add hrun (by simp [decimalDigits_length])]
  · rw [← ones, ← s.readByte_writeBytes_add hrun (by simp [decimalDigits_length])]

/-- Settles O46: the registers are a run of bytes from `I` on; out of range the fault table gives the cause. -/
theorem storeRegisters : Obligations.StoreRegisters := by
  refine ⟨fun s x hin => ?_, fun s x hout => exec_raises_of_faultIn (if_pos hout)⟩
  have hlen := s.registersTo_length x
  have hrun : s.index.toNat + (s.registersTo x).length ≤ 4096 := by omega
  have hframe := (s.changesOnly_writeBytes s.index.toNat (s.registersTo x)).append
    (State.changesOnly_setIndex _ (s.indexAfter x))
  refine ⟨_, execStoreRegs_of_le hin, fun k hk => ?_, hlen ▸ s.bytesChangeOnly_writeBytes hrun,
    s.indexAfter_toNat x hin, hframe⟩
  have hkx : k.val ≤ x.val := hk
  rw [State.setIndex_readByte, s.readByte_writeBytes_add hrun (by omega), s.registersTo_getD x k hk]

/-- Settles O47: the register file is replaced as a whole, those above `V[X]` by themselves; out of range the fault
table gives the cause. -/
theorem loadRegisters : Obligations.LoadRegisters := by
  refine ⟨fun s x hin => ?_, fun s x hout => exec_raises_of_faultIn (if_pos hout)⟩
  have hframe := (s.changesOnly_replaceV (s.registersLoaded x)).append (State.changesOnly_setIndex _ (s.indexAfter x))
  exact ⟨_, execLoadRegs_of_le hin, getV_of_v_eq_registersLoaded rfl, s.indexAfter_toNat x hin, hframe⟩

end Sys2Proof.Machine
end

section
/-! Proofs for spec/45_rand_timer_key.md and spec/30_encoding.md: CXNN, FX15 and FX0A, and the unknown word, at the
execute step and over the whole cycle (R100, R190, R192, R194). -/

namespace Sys2Proof.Machine

/-- R190: the masked byte, bit by bit. -/
theorem maskedRandomByte_exec (s : State) (x : Reg) (nn : Byte) :
    ∃ t, exec (.rnd x nn) s = .next t ∧ (∀ b, b < 8 → (t.getV x).getLsbD b = (nn.getLsbD b && s.rand.getLsbD b)) ∧
      RegistersChangeOnly s t [x] ∧ ChangesOnly s t [.v] :=
  exec_next_of_setV (fun v => ∀ b, b < 8 → v.getLsbD b = (nn.getLsbD b && s.rand.getLsbD b)) rfl
    fun _ _ => BitVec.getLsbD_and

/-- Settles O48: the cycle masks the byte it sampled, the head of the queue, and its tick keeps registers and queue. -/
theorem maskedRandomByte : Obligations.MaskedRandomByte := by
  refine ⟨maskedRandomByte_exec, fun s x nn i rest hrun hqueue => ?_⟩
  have hstep : step s = .next (s.sampleInputs.advance.setV x (nn &&& s.sampleInputs.rand)).tick :=
    hrun.step_eq_tick rfl (hrun.not_faulted_of_mode_eq rfl)
  refine ⟨_, hstep, ?_, ?_⟩ <;> simp [State.cycleInput, hqueue]

/-- Settles O50: the tick acts on the `DT` that the instruction wrote and on the `ST` that the cycle began with. -/
theorem setDelayTimer : Obligations.SetDelayTimer := by
  refine ⟨fun s x => ⟨s.setDt (s.getV x), rfl, rfl, s.changesOnly_setDt _⟩, fun s x hrun => ?_⟩
  have hstep : step s = .next (s.sampleInputs.advance.setDt (s.getV x)).tick :=
    hrun.step_eq_tick rfl (hrun.not_faulted_of_mode_eq rfl)
  exact ⟨_, hstep, by simp, by simp⟩

/-- Settles O52: parking is no fault, so the cycle ticks. -/
theorem keyWaitParks : Obligations.KeyWaitParks := by
  refine ⟨fun s x => ⟨s.park x, rfl, rfl, rfl, (s.changesOnly_park x).mono (by simp)⟩, fun s x hrun => ?_⟩
  have hstep : step s = .next (s.sampleInputs.advance.park x).tick := hrun.step_eq_tick rfl (by simp)
  have hframe := (s.changesOnly_sampleInputs_advance.append (State.changesOnly_park _ x)).append
    (State.changesOnly_tick _)
  exact ⟨_, hstep, rfl, rfl, rfl, by simp, by simp, hframe.mono (by simp [hostParts])⟩

/-- Settles O53: a word that matches no row decodes to an unknown word, and the cycle around its empty execute step
advances and ticks. -/
theorem unknownWordIsNoOperation : Obligations.UnknownWordIsNoOperation := by
  refine ⟨fun s w => ⟨s, rfl, ChangesOnly.refl s _⟩, fun s hmode hpc hrow => ?_⟩
  have hrun : RunsNow s (.unknown s.fetchWord) := ⟨hmode, hpc, decodeWord_of_no_row _ hrow⟩
  have hstep : step s = .next s.sampleInputs.advance.tick := hrun.step_eq_tick rfl (hrun.not_faulted_of_mode_eq rfl)
  have hframe := s.changesOnly_sampleInputs_advance.append (State.changesOnly_tick _)
  exact ⟨_, hstep, rfl, by simp, by simp, hframe.mono (by simp [hostParts])⟩

end Sys2Proof.Machine
end

section
/-! Proofs for spec/46_display.md: the clear, and the draw as a cellwise exclusive or with the sprite's bits, which is
its own inverse (R200 to R206). -/

namespace Sys2Proof.Machine

variable {s t : State} {x y : Reg} {n : Nibble}

/-- Settles O54: the word is CLS's own, and the blank display has every cell off. -/
theorem clearDisplay : Obligations.ClearDisplay := by
  refine ⟨fun _ => decodeWord_eq_iff rfl, fun s => ⟨_, rfl, fun row col => ?_, s.changesOnly_setDisp _⟩⟩
  simp [blankDisplay]

/-- R201, R202, R203: DXYN draws the sprite's bits over the display. -/
theorem State.drawn_spriteBit (s : State) (x y : Reg) (n : Nibble) :
    Drawing.Drawn ⟨s.disp, false⟩ (s.drawn x y n) (spriteBit s x y n) :=
  Drawing.drawn_plotRows _ _ _ _ _

theorem State.getV_setFlag_eq_or (s : State) (f : Bool) :
    (s.setFlag f).getV 15 = 0x00 ∨ (s.setFlag f).getV 15 = 0x01 := by
  cases f <;> simp [State.setFlag_eq]

theorem State.getV_setFlag_eq_one_iff (s : State) (f : Bool) : (s.setFlag f).getV 15 = 0x01 ↔ f = true := by
  cases f <;> simp [State.setFlag_eq]

/-- R201, R206: what a draw whose sprite lies in memory completes with. -/
theorem execDrw_next (hin : n.toNat = 0 ∨ s.index.toNat + n.toNat - 1 ≤ 4095) :
    ∃ t, exec (.drw x y n) s = .next t ∧
      (∀ (row : Fin 32) (col : Fin 64), t.disp[row][col] = (s.disp[row][col] ^^ spriteBit s x y n row col)) ∧
      (t.getV 15 = 0x00 ∨ t.getV 15 = 0x01) ∧
      (t.getV 15 = 0x01 ↔ ∃ (row : Fin 32) (col : Fin 64),
        s.disp[row][col] = true ∧ spriteBit s x y n row col = true) ∧
      RegistersChangeOnly s t [15] ∧ ChangesOnly s t [.v, .disp] := by
  obtain ⟨hcell, hcollision⟩ := s.drawn_spriteBit x y n
  have hframe : ChangesOnly s ((s.setDisp (s.drawn x y n).disp).setFlag (s.drawn x y n).collision) [.v, .disp] :=
    ((s.changesOnly_setDisp _).append (State.changesOnly_setV _ 15 _)).mono (by simp)
  refine ⟨_, execDrw_of_le hin, hcell, State.getV_setFlag_eq_or _ _, ?_,
    State.registersChangeOnly_setV (s.setDisp _) 15 _, hframe⟩
  rw [State.getV_setFlag_eq_one_iff, hcollision]
  simp [Drawing.Collides, and_comm]

/-- Settles O55: the draw within memory is said above; out of range the fault table gives the cause. -/
theorem drawIsCellwiseXor : Obligations.DrawIsCellwiseXor :=
  ⟨fun _ _ _ _ => execDrw_next, fun _ _ _ _ hn hout => exec_raises_of_faultIn (if_pos ⟨hn, hout⟩)⟩

/-- A draw leaves the sprite alone: it writes neither memory nor `I`, and of the registers only `VF`. -/
theorem spriteBit_eq_of_draw (hx : x ≠ 15) (hy : y ≠ 15) (hregs : RegistersChangeOnly s t [15])
    (hframe : ChangesOnly s t [.v, .disp]) : spriteBit t x y n = spriteBit s x y n := by
  have hindex : t.index = s.index := hframe .index (by simp)
  have hmem : ∀ a, t.readByte a = s.readByte a := hframe .mem (by simp)
  funext row col
  simp only [spriteBit, hindex, hmem, hregs x (by simpa using hx), hregs y (by simpa using hy)]

/-- Settles O56: both draws have the same sprite bits, so the second undoes the first, and meets a cell on exactly where
the first met it off. -/
theorem drawTwiceRestores : Obligations.DrawTwiceRestores := by
  intro s x y n hx hy hin
  obtain ⟨t, ht, hcell, -, -, hregs, hframe⟩ := execDrw_next (x := x) (y := y) hin
  have hindex : t.index = s.index := hframe .index (by simp)
  obtain ⟨u, hu, hcell', -, hflag', -⟩ := execDrw_next (s := t) (x := x) (y := y) (n := n) (by rwa [hindex])
  rw [spriteBit_eq_of_draw hx hy hregs hframe] at hcell' hflag'
  refine ⟨t, u, ht, hu, ?_, hflag'.trans ?_⟩
  · have hback : ∀ (row : Fin 32) (col : Fin 64), u.disp[row][col] = s.disp[row][col] := by
      intro row col
      rw [hcell', hcell, Bool.xor_assoc, Bool.xor_self, Bool.xor_false]
    exact Vector.ext fun row hrow => Vector.ext fun col hcol => hback ⟨row, hrow⟩ ⟨col, hcol⟩
  · refine exists_congr fun row => exists_congr fun col => and_congr_left fun hbit => ?_
    rw [hcell, hbit, Bool.xor_true, Bool.not_eq_true']

end Sys2Proof.Machine
end

section
/-! Proofs for spec/00_scope.md: a run is the first cycles up to the first state with an ending (R19; the model's
definition). -/

namespace Sys2Proof.Machine

variable {s : State} {e : Ending}

theorem State.faulted_or_atSelfJump_of_ending (h : s.ending = some e) : s.mode = .faulted ∨ s.atSelfJump = true := by
  by_contra hno
  rw [not_or, Bool.not_eq_true] at hno
  rw [s.ending_eq_none_iff.2 hno] at h
  cases h

/-- Settles O58, by induction on the bound: a state with an ending is the run's last, and another one steps to where the
shorter run begins. -/
theorem runEndsAtFirstEnding : Obligations.RunEndsAtFirstEnding := by
  intro s n
  induction n generalizing s with
  | zero => exact ⟨0, s, le_rfl, rfl, rfl, fun j hj => absurd hj (Nat.not_lt_zero j), .inl rfl⟩
  | succ n ih =>
    cases hend : s.ending with
    | some e =>
      exact ⟨0, s, Nat.zero_le _, s.run_of_ended _ hend, rfl, fun j hj => absurd hj (Nat.not_lt_zero j),
        .inr (State.faulted_or_atSelfJump_of_ending hend)⟩
    | none =>
      obtain ⟨t, hstep⟩ := stepAlwaysAnswersNext s
      obtain ⟨k, u, hk, hrun, hcycles, hbefore, hstop⟩ := ih t
      refine ⟨k + 1, u, by omega, (s.run_succ_of_next n hend hstep).trans hrun,
        (s.cycles_succ_of_next k hstep).trans hcycles, fun j hj => ?_, hstop.imp_left (congrArg (· + 1))⟩
      cases j with
      | zero => exact ⟨s, rfl, s.ending_eq_none_iff.1 hend⟩
      | succ j =>
        rw [s.cycles_succ_of_next j hstep]
        exact hbefore j (by omega)

end Sys2Proof.Machine
end
